-- ==== Sys2Proof/Word.lean ====
section
/-!
DEFINITION. The widths of the core's values (00_scope.md R7): words, bytes, command words, data operands. Every value is
unsigned (R9); `+` on a `BitVec` is addition modulo 2 to the width (R10).
-/

namespace Sys2Proof

/-- A word of the register file, of the message and of the output: 64 bits (R7, R20). -/
abbrev Word := BitVec 64

/-- A byte: a lane of the data operand, a round count, a length (R12, R73). -/
abbrev Byte := BitVec 8

/-- A command word: 32 bits (R70). -/
abbrev CmdWord := BitVec 32

/-- A data operand: 128 bits, 16 byte lanes (R71). -/
abbrev Data := BitVec 128

end Sys2Proof
end

