-- ==== Sys2Proof/Config.lean ====
section
/-!
DEFINITION. What is fixed for the core (00_scope.md R3, R7), the parameters the spec leaves OPEN, and the free values: values
the spec leaves open, which nothing in Lean can evaluate. The argument `draw` of a free value is `State.draws`.
-/

namespace Sys2Proof.Config

/-- The name of the block (R3, D1). -/
def blockName : String := "siphash_core"

/-- Its revision (R3, D1). -/
def revision : String := "spec-1"

/-- The one key length, in bytes, that INIT accepts (R7, R172). -/
abbrev keyBytes : Byte := 16#8

/-- The most message bytes one ABSORBB carries (R72). -/
abbrev maxBytes : Byte := 8#8

/-- One less than ROUND_CYCLES, which the spec leaves OPEN but for its bound, an integer >= 1 (R7, D20; log 15). -/
opaque roundCyclesPred : Nat

/-- One less than CMD_OVERHEAD, which the spec leaves OPEN but for its bound, an integer >= 1 (R7, D20; log 15). -/
opaque cmdOverheadPred : Nat

/-- ROUND_CYCLES: the clock cycles of one SipRound (R7). No step reads it (R215). -/
def roundCycles : Nat := roundCyclesPred + 1

/-- CMD_OVERHEAD: the fixed cycles of a command besides its rounds (R7). No step reads it (R215). -/
def cmdOverhead : Nat := cmdOverheadPred + 1

/-- FREE: which of the command words presented while the host broke R205 is accepted (row 8 of
93_implementation_defined.md; log 4). -/
opaque acceptedWord : (draw : Nat) → Nat

/-- FREE: which of the data operands presented while the host broke R205 is accepted (row 8; log 4). -/
opaque acceptedData : (draw : Nat) → Nat

/-- FREE: whether the core still accepts a command whose `cmd_valid` the host has withdrawn (R205; log 5). -/
opaque acceptsWithdrawn : (draw : Nat) → Bool

/-- FREE: what `rsp_err` shows once its response has been transferred, one of the codes 0 to 4 (R207; row 6; log 7). -/
opaque idleRspErr : (draw : Nat) → Fin 5

/-- FREE: what `rsp_data` shows once its response has been transferred (R207; log 7). -/
opaque idleRspData : (draw : Nat) → Word

/-- FREE: `state_o` on the given cycle of an execution (R208; log 8). -/
opaque busyState : (draw cycle : Nat) → BitVec 256

/-- FREE: `status_o`, but for BUSY, on the given cycle of an execution (R208; log 8). -/
opaque busyStatus : (draw cycle : Nat) → BitVec 32

/-- FREE: `cfg_o` on the given cycle of an execution (R208; log 8). -/
opaque busyCfg : (draw cycle : Nat) → BitVec 16

/-- FREE: `buf_o` on the given cycle of an execution (R208; log 8). -/
opaque busyBuf : (draw cycle : Nat) → BitVec 56

/-- FREE: `result_o` on the given cycle of an execution (R208; log 8). -/
opaque busyResult : (draw cycle : Nat) → Word

end Sys2Proof.Config
end

