-- ==== Sys2Proof/Syntax.lean ====
section
/-!
DEFINITION. What the host sends: a command, which is a command word and a data operand in one transfer (30_encoding.md R70,
R71), and the instruction it is decoded to. One constructor of `Instr` per row of spec/opcode_table.json.
-/

namespace Sys2Proof

/-- A command as it is transferred: the 32-bit command word `cmd` and the 128-bit data operand `data` (R70, R71). -/
structure Command where
  /-- `cmd_word`, with OP [3:0], RSV [7:4], C [15:8], D [23:16], LEN [31:24] (R70). -/
  word : CmdWord
  /-- `cmd_data`, byte lane i at bits 8i+7 to 8i (R12, R71). -/
  data : Data
deriving DecidableEq, Repr

/-- A legal command (R74, R79). Every command carries its whole data operand (R71); which bits of it an instruction uses,
and that the others are ignored, is for its meaning to say (assumption log 12). -/
inductive Instr where
  /-- INIT c, d, klen, key (R121): `c` the compression rounds, `d` the finalization rounds, `klen` the declared key length,
  `key` the data operand with key byte i in lane i (R52). -/
  | init (c d klen : Byte) (key : Data)
  /-- ABSORBW m (R130): the message word is bits 63..0 of the data operand (R53). -/
  | absorbw (data : Data)
  /-- ABSORBB n, bytes (R133): the message bytes are lanes 0 to n-1 of the data operand (R54). -/
  | absorbb (n : Byte) (data : Data)
  /-- FINAL (R151): the data operand is ignored. -/
  | final (data : Data)
  /-- FINALRAW (R153): the data operand is ignored. -/
  | finalraw (data : Data)
deriving DecidableEq, Repr

/-- Why a command word is illegal: the four cases of R177. The decoder of R79 answers one `Illegal` for all of them, and so
does the machine; the names are for the reader of a decoding (assumption log 13). -/
inductive IllegalCause where
  /-- RSV, bits [7:4], is not 0 (R72, R76). -/
  | reservedField
  /-- Opcode 0x0 or 0x6 to 0xF (R75). -/
  | reservedOpcode
  /-- A field that R72 marks "must be 0" is not 0 (R76). -/
  | mustBeZeroField
  /-- ABSORBB with LEN above 8 (R76). -/
  | byteCount
deriving DecidableEq, Repr

/-- What the decoder answers (R79): an instruction, or Illegal with its cause. -/
inductive Decoded where
  /-- One of the five commands of R74. -/
  | legal (i : Instr)
  /-- `Illegal` of R79. -/
  | illegal (cause : IllegalCause)
deriving DecidableEq, Repr

end Sys2Proof
end

