-- ==== Sys2Proof/WellFormed.lean ====
section
/-!
DEFINITION. Which terms of `Instr` some command word encodes (30_encoding.md R72, R76).
-/

namespace Sys2Proof

/-- The byte count of ABSORBB is at most 8 (R72, R76); every other field of every instruction takes every value of its
width (R72: INIT decodes with any C, D and LEN). -/
def Instr.wellFormed : Instr → Bool
  | .init _ _ _ _ => true
  | .absorbw _ => true
  | .absorbb n _ => decide (n ≤ 8#8)
  | .final _ => true
  | .finalraw _ => true

end Sys2Proof
end

