-- ==== Sys2Proof/Decode.lean ====
section
/-!
DEFINITION. The decoder (30_encoding.md R79), total on all command words, and after it the encoder, written from R70 and the
assembler table of R90.
-/

namespace Sys2Proof

/-- OP = cmd[3:0] (R70). -/
def Command.op (c : Command) : BitVec 4 := c.word.extractLsb' 0 4

/-- RSV = cmd[7:4] (R70). -/
def Command.rsv (c : Command) : BitVec 4 := c.word.extractLsb' 4 4

/-- C = cmd[15:8] (R70). -/
def Command.c (c : Command) : Byte := c.word.extractLsb' 8 8

/-- D = cmd[23:16] (R70). -/
def Command.d (c : Command) : Byte := c.word.extractLsb' 16 8

/-- LEN = cmd[31:24] (R70). -/
def Command.len (c : Command) : Byte := c.word.extractLsb' 24 8

/-- cmd[31:8] = 0: C, D and LEN all 0, as ABSORBW, FINAL and FINALRAW require (R72). -/
def Command.noOperands (c : Command) : Bool := c.word.extractLsb' 8 24 == 0#24

/-- cmd[23:8] = 0: C and D both 0, as ABSORBB requires (R72). -/
def Command.noRounds (c : Command) : Bool := c.word.extractLsb' 8 16 == 0#16

/-- The decoder of R79. -/
def decode (c : Command) : Decoded :=
  if c.rsv ≠ 0#4 then .illegal .reservedField
  else if c.op = 0x1#4 then .legal (.init c.c c.d c.len c.data)
  else if c.op = 0x2#4 then
    if c.noOperands then .legal (.absorbw c.data) else .illegal .mustBeZeroField
  else if c.op = 0x3#4 then
    if !c.noRounds then .illegal .mustBeZeroField
    else if c.len ≤ Config.maxBytes then .legal (.absorbb c.len c.data)
    else .illegal .byteCount
  else if c.op = 0x4#4 then
    if c.noOperands then .legal (.final c.data) else .illegal .mustBeZeroField
  else if c.op = 0x5#4 then
    if c.noOperands then .legal (.finalraw c.data) else .illegal .mustBeZeroField
  else .illegal .reservedOpcode

/-- The command word of an instruction: LEN, D, C, RSV and OP from the most significant byte down (R70, R90). -/
def encodeWord : Instr → CmdWord
  | .init c d klen _ => klen ++ d ++ c ++ 0x01#8
  | .absorbw _ => 0x00000002#32
  | .absorbb n _ => n ++ 0x000003#24
  | .final _ => 0x00000004#32
  | .finalraw _ => 0x00000005#32

/-- The data operand an instruction is transferred with (R71). -/
def Instr.data : Instr → Data
  | .init _ _ _ key => key
  | .absorbw data => data
  | .absorbb _ data => data
  | .final data => data
  | .finalraw data => data

/-- The command that carries an instruction (R70, R71). -/
def encode (i : Instr) : Command := { word := encodeWord i, data := i.data }

/-- The command whose bits are the number `w`, as spec/opcode_table.json numbers them: the command word in bits 31..0, the
data operand after it in bits 159..32; bits from `nbits` on are 0. -/
def Command.ofBits (nbits w : Nat) : Command :=
  { word := BitVec.ofNat 32 (w % 2 ^ nbits), data := BitVec.ofNat 128 (w % 2 ^ nbits / 2 ^ 32) }

/-- The instruction the decoder reads from the bits `w` of a command of at most 160 bits. -/
def decodeTableWord (nbits w : Nat) : Option Instr :=
  if nbits ≤ 160 then
    match decode (Command.ofBits nbits w) with
    | .legal i => some i
    | .illegal _ => none
  else none

end Sys2Proof
end

