-- ==== Sys2Proof/Machine/State.lean ====
section
/-!
DEFINITION. The state of the core (10_state.md R40, R44), its interface (70_reset_and_hazards.md R205 to R207) and its host
(R15), as plain data; the reasons a step can stop; the state after reset.
-/

namespace Sys2Proof.Machine

/-- SipState, the register file v0-v3 (R20). -/
structure SipState where
  v0 : Word
  v1 : Word
  v2 : Word
  v3 : Word
deriving DecidableEq, Repr

/-- PHASE, the session state (R23); its 2-bit number is `Phase.code`. -/
inductive Phase where
  /-- 0: no session, before the first successful INIT. -/
  | idle
  /-- 1: after key setup, before any absorption. -/
  | initialized
  /-- 2: after a successful ABSORBW or ABSORBB. -/
  | absorbing
  /-- 3: terminal, output available. -/
  | finalized
deriving DecidableEq, Repr

/-- The errors a command can raise (R171); the 4-bit number of one is `SipError.code`. -/
inductive SipError where
  /-- 1: INIT with LEN not 16 (R172). -/
  | invalidKeyLength
  /-- 2: INIT with C = 0 or D = 0 (R173). -/
  | invalidRoundCount
  /-- 3: a command of the session where the session does not allow it (R175). -/
  | invalidState
  /-- 4: a command word that decodes as Illegal (R177). -/
  | illegalCommand
deriving DecidableEq, Repr

/-- Where the core stands between the acceptance of a command and the transfer of its response (R206, R207). -/
inductive Channel where
  /-- No command in execution, no response waiting: BUSY = 0. -/
  | idle
  /-- A command has been accepted and its response is not yet up: BUSY = 1, rsp_valid = 0. -/
  | executing (c : Command)
  /-- A response waits on rsp_err and rsp_data: BUSY = 1, rsp_valid = 1. -/
  | responding
deriving DecidableEq, Repr

/-- What the host drives on the input ports at one edge of the clock (R37). -/
structure PortsIn where
  /-- `rst_n`, active low (R200). -/
  rstN : Bool
  /-- `cmd_valid` (R205). -/
  cmdValid : Bool
  /-- `cmd_word` and `cmd_data` (R205). -/
  cmd : Command
  /-- `rsp_ready` (R207). -/
  rspReady : Bool
deriving DecidableEq, Repr

/-- The core, its interface and its host. -/
structure State where
  /-- v0-v3 (R20). -/
  v : SipState
  /-- PHASE (R23). -/
  phase : Phase
  /-- CFG_C, the session's compression rounds (R24). -/
  cfgC : Byte
  /-- CFG_D, the session's finalization rounds (R24). -/
  cfgD : Byte
  /-- BUF, the bytes of the partial block, byte j at bits 8j+7 to 8j (R25). -/
  buf : BitVec 56
  /-- BUF_N, how many bytes BUF holds (R25). -/
  bufN : BitVec 3
  /-- LEN_LO, the number of message bytes taken in, modulo 256 (R26). -/
  lenLo : Byte
  /-- RESULT, the output of the most recent finalization (R27). -/
  result : Word
  /-- LAST_ERR, the code of the most recently completed command (R28). -/
  lastErr : BitVec 4
  /-- ERRS, sticky until reset (R29). -/
  errs : Bool
  /-- The command in execution or the response that waits (R206, R207). -/
  channel : Channel
  /-- `rsp_err` (R176, R207). -/
  rspErr : BitVec 4
  /-- `rsp_data` (R176, R207). -/
  rspData : Word
  /-- The model's own: the commands presented with cmd_valid = 1 and not yet accepted, in order (R205; log 4, log 6). -/
  waiting : List Command
  /-- The model's own: what the host drives at the coming edges, one entry a step (log 3). -/
  inputs : List PortsIn
  /-- The model's own: the counter that free values are drawn with (log 9). -/
  draws : Nat
deriving DecidableEq, Repr

/-- No fault exists: "No command can fault the model, hang, or refuse" (R80), and an error of a command "is neither a fault,
a stuck state nor a refusal" (R170). The type has no constructor, so nothing raises one (log 14). -/
inductive Fault where
deriving DecidableEq, Repr

/-- Why the model would give no meaning to an instruction. -/
inductive Refusal where
  /-- Raised by an arm of `exec` for an instruction without a meaning; safe. No arm of this model raises it. -/
  | notModelled (mnemonic : String)
deriving DecidableEq, Repr

/-- The machine after reset (R44, R201, R202): every register 0, PHASE Idle, nothing in execution, no response. The model's
own fields are empty (log 3, log 6, log 9). -/
def State.reset : State where
  v := { v0 := 0#64, v1 := 0#64, v2 := 0#64, v3 := 0#64 }
  phase := .idle
  cfgC := 0#8
  cfgD := 0#8
  buf := 0#56
  bufN := 0#3
  lenLo := 0#8
  result := 0#64
  lastErr := 0#4
  errs := false
  channel := .idle
  rspErr := 0#4
  rspData := 0#64
  waiting := []
  inputs := []
  draws := 0

end Sys2Proof.Machine
end

