-- ==== Sys2Proof/Machine/Flags.lean ====
section
/-!
DEFINITION. The numbers of PHASE and of the errors, and the STATUS view (10_state.md R23, R30; 60_exceptions.md R171). The
core has no arithmetic flags (R22, R34).
-/

namespace Sys2Proof.Machine

/-- The 2-bit encoding of PHASE (R23). -/
def Phase.code : Phase → BitVec 2
  | .idle => 0#2
  | .initialized => 1#2
  | .absorbing => 2#2
  | .finalized => 3#2

/-- The 4-bit error codes (R171). -/
def SipError.code : SipError → BitVec 4
  | .invalidKeyLength => 1#4
  | .invalidRoundCount => 2#4
  | .invalidState => 3#4
  | .illegalCommand => 4#4

/-- The code of a successful command (R171). -/
def okCode : BitVec 4 := 0#4

/-- A flag as one bit. -/
def flagBit (b : Bool) : BitVec 1 := BitVec.ofBool b

/-- BUSY: a command is in execution or its response has not been transferred (R32, R206). -/
def State.busy (s : State) : Bool := s.channel != .idle

/-- rsp_valid (R207). -/
def State.rspValid (s : State) : Bool := s.channel == .responding

/-- cmd_ready, which is 0 while rst_n is 0 (R200, R206). -/
def State.cmdReady (rstN : Bool) (s : State) : Bool := rstN && !s.busy

/-- A session is open: PHASE is Initialized or Absorbing, the check of every command but INIT (R175). -/
def State.sessionOpen (s : State) : Bool := s.phase == .initialized || s.phase == .absorbing

/-- The STATUS view: from bit 31 down, 8 reserved bits, LEN_LO, 5 reserved bits, BUF_N, LAST_ERR, ERRS, BUSY, PHASE; the
reserved bits read 0 (R30). -/
def statusWord (s : State) : BitVec 32 :=
  0#8 ++ s.lenLo ++ 0#5 ++ s.bufN ++ s.lastErr ++ flagBit s.errs ++ flagBit s.busy ++ s.phase.code

end Sys2Proof.Machine
end

