-- ==== Sys2Proof/Machine/SipRound.lean ====
section
/-!
DEFINITION. The datapath (40_sipround.md): adder, XOR, barrel shifter, SipRound, the round sequencer, the absorber and the
finalizer cores. Pure functions from values to values.
-/

namespace Sys2Proof.Machine

/-- The adder, modulo 2 to the 64; the carry is discarded (R100). -/
def add64 (a b : Word) : Word := a + b

/-- The XOR unit (R101). -/
def xor64 (a b : Word) : Word := a ^^^ b

/-- The barrel shifter: rotation to the left by a 6-bit amount (R102). -/
def rotl (x : Word) (n : BitVec 6) : Word :=
  if n = 0#6 then x else (x <<< n.toNat) ||| (x >>> (64 - n.toNat))

/-- SipRound, its statements in the order of R103. -/
def sipRound (s : SipState) : SipState :=
  let v0 := add64 s.v0 s.v1
  let v2 := add64 s.v2 s.v3
  let v1 := rotl s.v1 13#6
  let v3 := rotl s.v3 16#6
  let v1 := xor64 v1 v0
  let v3 := xor64 v3 v2
  let v0 := rotl v0 32#6
  let v2 := add64 v2 v1
  let v0 := add64 v0 v3
  let v1 := rotl v1 17#6
  let v3 := rotl v3 21#6
  let v1 := xor64 v1 v2
  let v3 := xor64 v3 v0
  let v2 := rotl v2 32#6
  { v0 := v0, v1 := v1, v2 := v2, v3 := v3 }

/-- The round sequencer: SipRound `k` times (R105). -/
def rounds (v : SipState) : Nat → SipState
  | 0 => v
  | k + 1 => rounds (sipRound v) k

/-- AbsorbCore: one message word with `c` compression rounds (R106). -/
def absorbCore (v : SipState) (m : Word) (c : Byte) : SipState :=
  let w := rounds { v with v3 := xor64 v.v3 m } c.toNat
  { w with v0 := xor64 w.v0 m }

/-- The state FinalizeCore returns: v2 with its low byte inverted, then `d` rounds (R108). -/
def finalizeState (v : SipState) (d : Byte) : SipState :=
  rounds { v with v2 := xor64 v.v2 0x00000000000000FF#64 } d.toNat

/-- v0 ^ v1 ^ v2 ^ v3 (R108). -/
def foldOut (v : SipState) : Word := xor64 (xor64 (xor64 v.v0 v.v1) v.v2) v.v3

/-- FinalizeCore: the state after the finalization rounds, and the output (R108). -/
def finalizeCore (v : SipState) (d : Byte) : SipState × Word :=
  (finalizeState v d, foldOut (finalizeState v d))

/-- The initialisation constants IV0-IV3 (R120). -/
def iv : SipState where
  v0 := 0x736f6d6570736575#64
  v1 := 0x646f72616e646f6d#64
  v2 := 0x6c7967656e657261#64
  v3 := 0x7465646279746573#64

/-- The register file INIT leaves, from the key halves k0 and k1 (R121). -/
def keyedState (k0 k1 : Word) : SipState where
  v0 := xor64 iv.v0 k0
  v1 := xor64 iv.v1 k1
  v2 := xor64 iv.v2 k0
  v3 := xor64 iv.v3 k1

end Sys2Proof.Machine
end

