-- ==== Sys2Proof/Machine/Operands.lean ====
section
/-!
DEFINITION. The operand forms: byte lanes of the data operand, key halves, the message word, little-endian packing
(00_scope.md R12, 20_memory.md R51 to R55).
-/

namespace Sys2Proof.Machine

/-- lane(data, i): byte i of the data operand (R12). -/
def lane (data : Data) (i : Nat) : Byte := data.extractLsb' (8 * i) 8

/-- The first `n` lanes, in lane order: the message bytes of an ABSORBB of n bytes (R54). -/
def lanes (data : Data) (n : Nat) : List Byte := (List.range n).map (lane data)

/-- k0 = data[63:0], LE64 of key bytes 0 to 7 (R52). -/
def keyLow (key : Data) : Word := key.extractLsb' 0 64

/-- k1 = data[127:64], LE64 of key bytes 8 to 15 (R52). -/
def keyHigh (key : Data) : Word := key.extractLsb' 64 64

/-- m = data[63:0], the word of an ABSORBW (R53). -/
def messageWord (data : Data) : Word := data.extractLsb' 0 64

/-- Little-endian packing of bytes, the first byte least significant (R51). At width 64 and eight bytes it is LE64; at width
128 and sixteen bytes it is the data operand with byte i in lane i (R52, R90). -/
def le (w : Nat) : List Byte → BitVec w
  | [] => 0#w
  | b :: bs => b.setWidth w ||| (le w bs <<< 8)

/-- Byte i of a word, bits 8i+7 to 8i (R51). -/
def byteOf (x : Word) (i : Nat) : Byte := x.extractLsb' (8 * i) 8

/-- The eight bytes of the output, if a host serialises it (R55). -/
def serialise (x : Word) : List Byte := (List.range 8).map (byteOf x)

end Sys2Proof.Machine
end

