-- ==== Sys2Proof/Machine/Ops.lean ====
section
/-!
DEFINITION. The named operations the meanings share: answering a command, raising an error, the byte packer and the
length-padding encoder. There is no memory (20_memory.md R50) and no return from an error (60_exceptions.md R180).
-/

namespace Sys2Proof.Machine

/-- respond(err, value): the one response of a command; rsp_valid rises (R12, R176, R207). -/
def State.respond (e : BitVec 4) (value : Word) (s : State) : State :=
  { s with channel := .responding, rspErr := e, rspData := value }

/-- raise E: LAST_ERR and ERRS are written, the response is (code, 0), and no other register is written (R174). It is the
core's only exception: there is no handler to enter and no return (R170, R180). -/
def State.raise (e : SipError) (s : State) : State :=
  { s with lastErr := e.code, errs := true }.respond e.code 0#64

/-- The end of every successful command: LAST_ERR is 0, ERRS is left, the response is (0, value) (R176, R179). -/
def State.succeed (value : Word) (s : State) : State :=
  { s with lastErr := okCode }.respond okCode value

/-- The block being packed, with byte `b` at position BUF_N: the `w` of R132. -/
def packWord (b : Byte) (s : State) : Word :=
  s.buf.setWidth 64 ||| (b.setWidth 64 <<< (8 * s.bufN.toNat))

/-- PackByte(b): append a byte; when it is the eighth, absorb the block and empty the buffer (R132). -/
def packByte (s : State) (b : Byte) : State :=
  if s.bufN = 7#3 then
    { s with lenLo := s.lenLo + 1#8, v := absorbCore s.v (packWord b s) s.cfgC, buf := 0#56, bufN := 0#3 }
  else
    { s with lenLo := s.lenLo + 1#8, buf := (packWord b s).setWidth 56, bufN := s.bufN + 1#3 }

/-- PackByte of each byte in message order (R133). -/
def packBytes (s : State) (bytes : List Byte) : State := bytes.foldl packByte s

/-- PadWord(): BUF in the low seven bytes, LEN_LO in the top byte (R150). -/
def padWord (s : State) : Word := s.buf.setWidth 64 ||| (s.lenLo.setWidth 64 <<< 56)

end Sys2Proof.Machine
end

