-- ==== Sys2Proof/Machine/Absorb.lean ====
section
/-!
DEFINITION. ABSORBW and ABSORBB (42_absorb.md R130 to R134).
-/

namespace Sys2Proof.Machine

/-- The register changes of a successful ABSORBW of the word `m` (R130). -/
def State.absorbWord (m : Word) (s : State) : State :=
  { s with v := absorbCore s.v m s.cfgC, lenLo := s.lenLo + 8#8, phase := .absorbing }

/-- The register changes of a successful ABSORBB of `bytes` (R133). -/
def State.absorbBytes (bytes : List Byte) (s : State) : State :=
  { packBytes s bytes with phase := .absorbing }

/-- ABSORBW m: a session must be open, then the buffer empty (R130, R175, R178). Bits 127..64 of the operand are ignored. -/
def execAbsorbw (data : Data) (s : State) : Host.Outcome State Fault Refusal :=
  if !s.sessionOpen then .next (s.raise .invalidState)
  else if s.bufN ≠ 0#3 then .next (s.raise .invalidState)
  else .next ((s.absorbWord (messageWord data)).succeed 0#64)

/-- ABSORBB n, bytes: the count, then the session (R133, R178). The decoder passes no count above 8; the check of R133 stands
here too, so that the meaning is R133's on every term (log 12). -/
def execAbsorbb (n : Byte) (data : Data) (s : State) : Host.Outcome State Fault Refusal :=
  if Config.maxBytes < n then .next (s.raise .illegalCommand)
  else if !s.sessionOpen then .next (s.raise .invalidState)
  else .next ((s.absorbBytes (lanes data n.toNat)).succeed 0#64)

end Sys2Proof.Machine
end

