-- ==== Sys2Proof/Machine/Finalize.lean ====
section
/-!
DEFINITION. FINAL and FINALRAW (43_finalize.md R151 to R154).
-/

namespace Sys2Proof.Machine

/-- The register changes FINAL and FINALRAW share: FinalizeCore of `v`, its output to RESULT (R108, R151, R153). -/
def State.finalizeFrom (v : SipState) (s : State) : State :=
  { s with v := finalizeState v s.cfgD, result := foldOut (finalizeState v s.cfgD), phase := .finalized }

/-- The register changes of a successful FINAL: absorb the padded block, finalize, empty the buffer; LEN_LO, CFG_C and CFG_D
are left (R151). -/
def State.padAndFinalize (s : State) : State :=
  { s.finalizeFrom (absorbCore s.v (padWord s) s.cfgC) with buf := 0#56, bufN := 0#3 }

/-- FINAL: a session must be open; responds with the output (R151). The operand is ignored. -/
def execFinal (_data : Data) (s : State) : Host.Outcome State Fault Refusal :=
  if !s.sessionOpen then .next (s.raise .invalidState)
  else .next (s.padAndFinalize.succeed s.padAndFinalize.result)

/-- FINALRAW: a session must be open, then the buffer empty; responds with the output (R153, R178). The operand is ignored. -/
def execFinalraw (_data : Data) (s : State) : Host.Outcome State Fault Refusal :=
  if !s.sessionOpen then .next (s.raise .invalidState)
  else if s.bufN ≠ 0#3 then .next (s.raise .invalidState)
  else .next ((s.finalizeFrom s.v).succeed (s.finalizeFrom s.v).result)

end Sys2Proof.Machine
end

