-- ==== Sys2Proof/Machine/Init.lean ====
section
/-!
DEFINITION. INIT (41_init.md R121, R122).
-/

namespace Sys2Proof.Machine

/-- The state a successful INIT starts its session in, before it responds: RESULT and ERRS are left (R121). -/
def State.startSession (c d : Byte) (key : Data) (s : State) : State :=
  { s with
    v := keyedState (keyLow key) (keyHigh key)
    cfgC := c
    cfgD := d
    buf := 0#56
    bufN := 0#3
    lenLo := 0#8
    phase := .initialized }

/-- INIT c, d, klen, key: accepted in every phase; the key length is checked before the round counts (R121, R178). -/
def execInit (c d klen : Byte) (key : Data) (s : State) : Host.Outcome State Fault Refusal :=
  if klen ≠ Config.keyBytes then .next (s.raise .invalidKeyLength)
  else if c = 0#8 ∨ d = 0#8 then .next (s.raise .invalidRoundCount)
  else .next ((s.startSession c d key).succeed 0#64)

end Sys2Proof.Machine
end

