-- ==== Sys2Proof/Machine/Dispatch.lean ====
section
/-!
DEFINITION. One arm per instruction.
-/

namespace Sys2Proof.Machine

/-- The meaning of a legal command (30_encoding.md R80). -/
def exec (i : Instr) (s : State) : Host.Outcome State Fault Refusal :=
  match i with
  | .init c d klen key => Sys2Proof.Machine.execInit c d klen key s
  | .absorbw data => Sys2Proof.Machine.execAbsorbw data s
  | .absorbb n data => Sys2Proof.Machine.execAbsorbb n data s
  | .final data => Sys2Proof.Machine.execFinal data s
  | .finalraw data => Sys2Proof.Machine.execFinalraw data s

end Sys2Proof.Machine
end

