-- ==== Sys2Proof/Machine/Interface.lean ====
section
/-!
DEFINITION. The command channel, the response channel and reset (70_reset_and_hazards.md R200 to R212), one operation for what
happens at an edge of the clock in each state of the channel, and Execute (30_encoding.md R80).
-/

namespace Sys2Proof.Machine

/-- Execute(S, cmd, data) of R80: an illegal command word raises IllegalCommand (R177), a legal one has its meaning. The
response is what it leaves on `rspErr` and `rspData`. -/
def execute (c : Command) (s : State) : Host.Outcome State Fault Refusal :=
  match decode c with
  | .legal i => exec i s
  | .illegal _ => .next (s.raise .illegalCommand)

/-- Input ports on which nothing is asked: no reset, no command, no response taken. -/
def PortsIn.quiet : PortsIn :=
  { rstN := true, cmdValid := false, cmd := { word := 0#32, data := 0#128 }, rspReady := false }

/-- What the host drives at the coming edge; past the end of the list the ports are quiet (log 3). -/
def State.ports (s : State) : PortsIn := s.inputs.headD PortsIn.quiet

/-- The edge is past. -/
def State.advance (s : State) : State := { s with inputs := s.inputs.tail }

/-- The reset action: every architectural register at its reset value, the command in execution and the response dropped
(R200, R201, R210). The host's coming inputs are not the core's, and the counter of free values runs on (log 6, log 9). -/
def State.resetAction (s : State) : State :=
  { State.reset with inputs := s.inputs, draws := s.draws + 1 }

/-- A command presented while cmd_ready = 0 waits (R205). -/
def State.noteOffer (p : PortsIn) (s : State) : State :=
  { s with waiting := s.waiting ++ (if p.cmdValid then [p.cmd] else []) }

/-- Every command the host has presented since the last acceptance, the present edge's last (R205, row 8). -/
def State.offers (p : PortsIn) (s : State) : List Command :=
  s.waiting ++ (if p.cmdValid then [p.cmd] else [])

/-- One of a list's entries, by a free value. -/
def pick {α : Type} (k : Nat) (x : α) (xs : List α) : α := (x :: xs).getD (k % (xs.length + 1)) x

/-- The command accepted at an edge with cmd_ready = 1 (R205). A host that held its command has exactly that command
accepted. One that changed or withdrew it may have any of the values it presented accepted, or, where it withdrew the
command, none (R205, row 8; log 4, log 5). -/
def State.accepted (p : PortsIn) (s : State) : Option Command :=
  match s.offers p with
  | [] => none
  | c :: cs =>
    if p.cmdValid && cs.all (· == c) then some c
    else if p.cmdValid || Config.acceptsWithdrawn s.draws then
      some { word := pick (Config.acceptedWord s.draws) c.word (cs.map Command.word)
             data := pick (Config.acceptedData s.draws) c.data (cs.map Command.data) }
    else none

/-- An edge with nothing in execution and no response waiting: the command accepted goes into execution (R205, R206); with no
command presented nothing changes (R186). -/
def State.idleEdge (p : PortsIn) (s : State) : State :=
  match s.offers p with
  | [] => s
  | _ :: _ =>
    { s with
      channel := match s.accepted p with
        | some c => .executing c
        | none => .idle
      waiting := []
      draws := s.draws + 1 }

/-- An edge with a response waiting: with rsp_ready = 1 it is transferred and rsp_valid falls, and what rsp_err and rsp_data
show from then on is open (log 7); otherwise all three are held (R207, R209). -/
def State.responseEdge (p : PortsIn) (s : State) : State :=
  if p.rspReady then
    { s.noteOffer p with
      channel := .idle
      rspErr := BitVec.ofNat 4 (Config.idleRspErr s.draws).val
      rspData := Config.idleRspData s.draws
      draws := s.draws + 1 }
  else s.noteOffer p

end Sys2Proof.Machine
end

