-- ==== Sys2Proof/Machine/Observe.lean ====
section
/-!
DEFINITION. The output ports (10_state.md R20, R30, R31, R38) and when they show the architectural state
(70_reset_and_hazards.md R208).
-/

namespace Sys2Proof.Machine

/-- state_o = (v3, v2, v1, v0), v0 least significant (R20). -/
def stateView (v : SipState) : BitVec 256 := v.v3 ++ v.v2 ++ v.v1 ++ v.v0

/-- cfg_o = (CFG_D, CFG_C), CFG_C least significant (R31). -/
def cfgView (s : State) : BitVec 16 := s.cfgD ++ s.cfgC

/-- The output ports (R38). -/
structure PortsOut where
  cmdReady : Bool
  rspValid : Bool
  rspErr : BitVec 4
  rspData : Word
  stateO : BitVec 256
  statusO : BitVec 32
  cfgO : BitVec 16
  bufO : BitVec 56
  resultO : Word
deriving DecidableEq, Repr

/-- BUSY is bit 2 of STATUS (R30). -/
def busyMask : BitVec 32 := 0x00000004#32

/-- The output ports. While a command is in execution the observation ports show any value, but for BUSY, which is 1;
`cycle` tells the clock cycles of one execution apart (R208; log 8). At every other time they show the registers. Reading
them changes nothing (R59). -/
def observe (cycle : Nat) (s : State) : PortsOut :=
  match s.channel with
  | .executing _ =>
    { cmdReady := s.cmdReady s.ports.rstN
      rspValid := s.rspValid
      rspErr := s.rspErr
      rspData := s.rspData
      stateO := Config.busyState s.draws cycle
      statusO := Config.busyStatus s.draws cycle ||| busyMask
      cfgO := Config.busyCfg s.draws cycle
      bufO := Config.busyBuf s.draws cycle
      resultO := Config.busyResult s.draws cycle }
  | _ =>
    { cmdReady := s.cmdReady s.ports.rstN
      rspValid := s.rspValid
      rspErr := s.rspErr
      rspData := s.rspData
      stateO := stateView s.v
      statusO := statusWord s
      cfgO := cfgView s
      bufO := s.buf
      resultO := s.result }

end Sys2Proof.Machine
end

