-- ==== Sys2Proof/Machine/Step.lean ====
section
/-!
DEFINITION. One step: one edge of the clock at which the host drives the next sample of the input ports. The edges that only
pass time inside an execution are left out (70_reset_and_hazards.md R215; log 2), so a command in execution completes at the
next edge without reset.
-/

namespace Sys2Proof.Machine

/-- Reset before all else (R200); then a command in execution has its effect and responds (R80, R207); a response is
transferred or held (R207); an idle core may accept a command (R205). -/
def step (s : State) : Host.Outcome State Fault Refusal :=
  if s.ports.rstN = false then .next s.advance.resetAction
  else
    match s.channel with
    | .idle => .next (s.advance.idleEdge s.ports)
    | .executing c => execute c (s.advance.noteOffer s.ports)
    | .responding => .next (s.advance.responseEdge s.ports)

/-- `s` with the command whose bits are `w` accepted and in execution, and one quiet sample put before the host's inputs, so
that the next step runs exactly that command (log 1). -/
def State.withFetchWord (s : State) (nbits w : Nat) : State :=
  { s with channel := .executing (Command.ofBits nbits w), inputs := PortsIn.quiet :: s.inputs }

end Sys2Proof.Machine
end

