-- ==== Sys2Proof/Machine/Program.lean ====
section
/-!
DEFINITION. What a host issues (30_encoding.md R90 to R92): the assembler, runs of Execute (20_memory.md R61), the host's side
of the handshake, the HASH expansion, and the hash function itself over byte lists (00_scope.md R2, 43_finalize.md R150, R155).
-/

namespace Sys2Proof.Machine

/-- `INIT c, d, klen, key` with the key bytes in lane order (R90). -/
def asmInit (c d klen : Byte) (key : List Byte) : Command := encode (.init c d klen (le 128 key))

/-- `ABSORBW m`, with data[127:64] = 0 (R90). -/
def asmAbsorbw (m : Word) : Command := encode (.absorbw (m.setWidth 128))

/-- `ABSORBB n, bytes`, with the remaining lanes 0 (R90). -/
def asmAbsorbb (n : Byte) (bytes : List Byte) : Command := encode (.absorbb n (le 128 bytes))

/-- `FINAL` (R90). -/
def asmFinal : Command := encode (.final 0#128)

/-- `FINALRAW` (R90). -/
def asmFinalraw : Command := encode (.finalraw 0#128)

/-- The left fold of Execute over a sequence of commands: S_k of R61. A command that fails does not end it; stopping at the
first error is the host's part (R92; log 11). -/
def runCommands : List Command → State → Host.Outcome State Fault Refusal
  | [], s => .next s
  | c :: cs, s =>
    match execute c s with
    | .next t => runCommands cs t
    | .fault r => .fault r
    | .refused r => .refused r

/-- The responses (rsp_err, rsp_data) of a sequence of commands, in command order (R61, R176). -/
def responses : List Command → State → List (BitVec 4 × Word)
  | [], _ => []
  | c :: cs, s =>
    match execute c s with
    | .next t => (t.rspErr, t.rspData) :: responses cs t
    | .fault _ => []
    | .refused _ => []

/-- The input ports of a host that presents `c` (R205). -/
def PortsIn.offer (c : Command) : PortsIn := { PortsIn.quiet with cmdValid := true, cmd := c }

/-- The input ports of a host that takes a response (R207). -/
def PortsIn.take : PortsIn := { PortsIn.quiet with rspReady := true }

/-- One command through the handshake: present it, let it complete, take its response (R205 to R207). -/
def handshake (c : Command) : List PortsIn := [PortsIn.offer c, PortsIn.quiet, PortsIn.take]

/-- A sequence of commands through the handshake. -/
def script (cs : List Command) : List PortsIn := cs.flatMap handshake

/-- The full 8-byte chunks of a message, in order (R92, R135). -/
def fullChunks : List Byte → List (List Byte)
  | b0 :: b1 :: b2 :: b3 :: b4 :: b5 :: b6 :: b7 :: rest => [b0, b1, b2, b3, b4, b5, b6, b7] :: fullChunks rest
  | _ => []

/-- The 0 to 7 leftover bytes of a message (R135, R150). -/
def tailBytes : List Byte → List Byte
  | _ :: _ :: _ :: _ :: _ :: _ :: _ :: _ :: rest => tailBytes rest
  | tail => tail

/-- The full little-endian words of a message (R135). -/
def fullWords (msg : List Byte) : List Word := (fullChunks msg).map (le 64)

/-- LE64(tail bytes, zero bytes up to 7 in all, L mod 256): the word a host that pads computes (R150). -/
def padTail (tail : List Byte) (len : Nat) : Word :=
  le 64 (tail ++ List.replicate (7 - tail.length) 0#8 ++ [BitVec.ofNat 8 len])

/-- The words a message is absorbed as, the padded one last (R155). -/
def paddedWords (msg : List Byte) : List Word := fullWords msg ++ [padTail (tailBytes msg) msg.length]

/-- Absorption of words in order with `c` rounds each (R106). -/
def absorbWords (c : Byte) (v : SipState) (ws : List Word) : SipState := ws.foldl (fun v m => absorbCore v m c) v

/-- SipHash-c-d of a message under a 16-byte key (R2, R92). -/
def sipHash (c d : Byte) (key msg : List Byte) : Word :=
  (finalizeCore (absorbWords c (keyedState (le 64 (key.take 8)) (le 64 (key.drop 8))) (paddedWords msg)) d).2

/-- The tail of the HASH expansion: an ABSORBB of the leftover bytes, omitted when there are none (R92). -/
def tailCommands (tail : List Byte) : List Command :=
  if tail = [] then [] else [asmAbsorbb (BitVec.ofNat 8 tail.length) tail]

/-- The HASH expansion (R92). -/
def hashProgram (c d : Byte) (key msg : List Byte) : List Command :=
  asmInit c d 16#8 key :: (fullChunks msg).map (asmAbsorbb 8#8) ++ tailCommands (tailBytes msg) ++ [asmFinal]

/-- The equivalent expansion with an ABSORBW for each full chunk (R92). -/
def hashProgramW (c d : Byte) (key msg : List Byte) : List Command :=
  asmInit c d 16#8 key :: (fullWords msg).map asmAbsorbw ++ tailCommands (tailBytes msg) ++ [asmFinal]

/-- The raw incremental surface: the host chunks and pads, and finalizes without padding (R131). -/
def rawProgram (c d : Byte) (key msg : List Byte) : List Command :=
  asmInit c d 16#8 key :: (paddedWords msg).map asmAbsorbw ++ [asmFinalraw]

/-- One piece of message intake: a host-packed word or up to eight bytes (R57). -/
inductive Intake where
  | word (m : Word)
  | bytes (bs : List Byte)
deriving DecidableEq, Repr

/-- The message bytes of a piece, in message order (R53, R54). -/
def Intake.message : Intake → List Byte
  | .word m => serialise m
  | .bytes bs => bs

/-- The command that feeds a piece (R90). -/
def Intake.command : Intake → Command
  | .word m => asmAbsorbw m
  | .bytes bs => asmAbsorbb (BitVec.ofNat 8 bs.length) bs

/-- The pieces can be fed after `len` bytes: no ABSORBB of more than eight bytes, and a word only at a block boundary (R57,
R58). -/
def intakeAllowed : Nat → List Intake → Bool
  | _, [] => true
  | len, .word _ :: ps => len % 8 == 0 && intakeAllowed (len + 8) ps
  | len, .bytes bs :: ps => decide (bs.length ≤ 8) && intakeAllowed (len + bs.length) ps

end Sys2Proof.Machine
end

