-- ==== Sys2Proof/Machine/Session.lean ====
section
/-!
DEFINITION. The session rules as tables of their own (10_state.md R43, 60_exceptions.md R175, R178), and the round counts and
latencies of 40_sipround.md R109 and 70_reset_and_hazards.md R213, R214. No step reads this file: the meanings check what they
check themselves, and statements hold the two against each other.
-/

namespace Sys2Proof.Machine

/-- The session state machine of R43, for the legal commands: the next PHASE, or the error raised. In Initialized the table
reads no BUF_N, because it is 0 there. -/
def sessionTable : Instr → Phase → BitVec 3 → Except SipError Phase
  | .init c d klen _, _, _ =>
    if klen ≠ 16#8 then .error .invalidKeyLength
    else if c = 0#8 ∨ d = 0#8 then .error .invalidRoundCount
    else .ok .initialized
  | .absorbw _, .initialized, _ => .ok .absorbing
  | .absorbw _, .absorbing, n => if n = 0#3 then .ok .absorbing else .error .invalidState
  | .absorbw _, _, _ => .error .invalidState
  | .absorbb _ _, .initialized, _ => .ok .absorbing
  | .absorbb _ _, .absorbing, _ => .ok .absorbing
  | .absorbb _ _, _, _ => .error .invalidState
  | .final _, .initialized, _ => .ok .finalized
  | .final _, .absorbing, _ => .ok .finalized
  | .final _, _, _ => .error .invalidState
  | .finalraw _, .initialized, _ => .ok .finalized
  | .finalraw _, .absorbing, n => if n = 0#3 then .ok .finalized else .error .invalidState
  | .finalraw _, _, _ => .error .invalidState

/-- The first applicable error of a command in the order of R178, read from the fields of the command word, PHASE and
BUF_N. -/
def firstError (c : Command) (s : State) : Option SipError :=
  if c.rsv ≠ 0#4 ∨ c.op = 0#4 ∨ 6#4 ≤ c.op then some .illegalCommand
  else if (c.op = 2#4 ∨ c.op = 4#4 ∨ c.op = 5#4) ∧ ¬ (c.c = 0#8 ∧ c.d = 0#8 ∧ c.len = 0#8) then some .illegalCommand
  else if c.op = 3#4 ∧ (¬ (c.c = 0#8 ∧ c.d = 0#8) ∨ 8#8 < c.len) then some .illegalCommand
  else if c.op ≠ 1#4 ∧ (s.phase = .idle ∨ s.phase = .finalized) then some .invalidState
  else if (c.op = 2#4 ∨ c.op = 5#4) ∧ s.bufN ≠ 0#3 then some .invalidState
  else if c.op = 1#4 ∧ c.len ≠ 16#8 then some .invalidKeyLength
  else if c.op = 1#4 ∧ (c.c = 0#8 ∨ c.d = 0#8) then some .invalidRoundCount
  else none

/-- The number of SipRounds a successful command performs (R109): CFG_C per block, CFG_D per finalization. -/
def roundsOf (s : State) : Instr → Nat
  | .init _ _ _ _ => 0
  | .absorbw _ => s.cfgC.toNat
  | .absorbb n _ => if s.bufN.toNat + n.toNat < 8 then 0 else s.cfgC.toNat
  | .final _ => s.cfgC.toNat + s.cfgD.toNat
  | .finalraw _ => s.cfgD.toNat

/-- The reference latency of a command in clock cycles, from its acceptance to rsp_valid (R214); any error takes the overhead
alone. -/
def latency (c : Command) (s : State) : Nat :=
  match firstError c s, decode c with
  | none, .legal i => Config.cmdOverhead + roundsOf s i * Config.roundCycles
  | _, _ => Config.cmdOverhead

end Sys2Proof.Machine
end

