-- ==== Sys2Proof/Safety.lean ====
section
/-!
DEFINITION. What a good state is: the invariants the spec states of the registers, as one predicate; and the architectural
record of 10_state.md R40 as a view of the state.
-/

namespace Sys2Proof.Machine

/-- The record S of R40. -/
structure Arch where
  v : SipState
  phase : Phase
  cfgC : Byte
  cfgD : Byte
  buf : BitVec 56
  bufN : BitVec 3
  lenLo : Byte
  result : Word
  lastErr : BitVec 4
  errs : Bool
deriving DecidableEq, Repr

/-- The architectural registers of a state (R40). -/
def State.arch (s : State) : Arch where
  v := s.v
  phase := s.phase
  cfgC := s.cfgC
  cfgD := s.cfgD
  buf := s.buf
  bufN := s.bufN
  lenLo := s.lenLo
  result := s.result
  lastErr := s.lastErr
  errs := s.errs

/-- The effect of `raise E` written out: LAST_ERR and ERRS, the response, and nothing else (R174). -/
def State.failedWith (code : BitVec 4) (s : State) : State :=
  { s with lastErr := code, errs := true, channel := .responding, rspErr := code, rspData := 0#64 }

/-- The PHASE in which the commands of a session run: Initialized or Absorbing (R175). -/
abbrev State.inSession (s : State) : Prop := s.phase = .initialized ∨ s.phase = .absorbing

/-- The response waits: rsp_valid with this error code and data (R176). -/
abbrev State.responds (e : BitVec 4) (value : Word) (s : State) : Prop :=
  s.channel = .responding ∧ s.rspErr = e ∧ s.rspData = value

/-- BUF[55:8*BUF_N] = 0 (R25). -/
abbrev bufferClean (s : State) : Prop := s.buf >>> (8 * s.bufN.toNat) = 0#56

/-- CFG_C >= 1 and CFG_D >= 1 in a session and after it, both 0 in Idle (R24). -/
abbrev roundsLatched (s : State) : Prop :=
  (s.phase = .idle → s.cfgC = 0#8 ∧ s.cfgD = 0#8) ∧ (s.phase ≠ .idle → s.cfgC ≠ 0#8 ∧ s.cfgD ≠ 0#8)

/-- Bytes are buffered in Absorbing only, and BUF_N is LEN_LO modulo 8 while a session is open (R26, R43, R132). -/
abbrev bufferTracksLength (s : State) : Prop :=
  (s.phase ≠ .absorbing → s.bufN = 0#3) ∧ (s.sessionOpen = true → s.lenLo.toNat % 8 = s.bufN.toNat)

/-- Nothing has been taken in before the first ABSORBW or ABSORBB of a session (R26, R43). -/
abbrev freshSession (s : State) : Prop := s.phase = .initialized → s.lenLo = 0#8

/-- Idle is the phase no successful command has left yet: the registers are as reset left them (R43, R44). -/
abbrev idleBlank (s : State) : Prop :=
  s.phase = .idle → s.v = State.reset.v ∧ s.lenLo = 0#8 ∧ s.result = 0#64

/-- Codes 5 to 15 never occur, and a failure is remembered (R30, R171, R179; row 6 of 93_implementation_defined.md). -/
abbrev errorCodes (s : State) : Prop :=
  s.lastErr ≤ 4#4 ∧ s.rspErr ≤ 4#4 ∧ (s.lastErr ≠ 0#4 → s.errs = true)

/-- A response that waits carries the outcome LAST_ERR holds, and its data is 0 unless it is an output (R28, R176). -/
abbrev responseAgrees (s : State) : Prop :=
  s.channel = .responding →
    s.rspErr = s.lastErr ∧
    s.rspData = if s.rspErr = 0#4 ∧ s.phase = .finalized then s.result else 0#64

/-- The invariant of the core. -/
abbrev Inv (s : State) : Prop :=
  bufferClean s ∧ roundsLatched s ∧ bufferTracksLength s ∧ freshSession s ∧ idleBlank s ∧ errorCodes s ∧ responseAgrees s

end Sys2Proof.Machine
end

