-- ==== Sys2Proof/Certificates/Slice0/Obligations.lean ====
section
/-!
DEFINITION. The statements about the model, for the provers. Each docstring names the rule it formalises.
-/

open Sys2Proof Sys2Proof.Machine

/-! ### Encoding -/

/-- Words written out from R70, R72 and R74 decode to the command they stand for. -/
def Obligations.DecodeReadsSpecWords : Prop :=
  ∀ data : Data,
    decode { word := 0x10040201#32, data := data } = .legal (.init 2#8 4#8 16#8 data) ∧
    decode { word := 0x00000002#32, data := data } = .legal (.absorbw data) ∧
    decode { word := 0x08000003#32, data := data } = .legal (.absorbb 8#8 data) ∧
    decode { word := 0x00000004#32, data := data } = .legal (.final data) ∧
    decode { word := 0x00000005#32, data := data } = .legal (.finalraw data)

/-- Decoding what the encoder writes gives the instruction back, for every well-formed instruction with every operand, and an
ill-formed term is encoded by no legal command (R70, R72, R79). -/
def Obligations.DecodeOfEncode : Prop :=
  ∀ i : Instr, decode (encode i) = .legal i ↔ i.wellFormed = true

/-- Encoding what the decoder reads gives the command back, so no bit of a legal command is dropped (R70, R71, R79). -/
def Obligations.EncodeOfDecode : Prop :=
  ∀ (c : Command) (i : Instr), decode c = .legal i → encode i = c ∧ i.wellFormed = true

/-- The match and mask pairs of the opcode map, with LEN <= 8 for ABSORBB (R74). -/
def Obligations.DecodeFollowsMatchAndMask : Prop :=
  ∀ c : Command,
    ((∃ cr dr klen key, decode c = .legal (.init cr dr klen key)) ↔ c.word &&& 0x000000FF#32 = 0x00000001#32) ∧
    ((∃ data, decode c = .legal (.absorbw data)) ↔ c.word &&& 0xFFFFFFFF#32 = 0x00000002#32) ∧
    ((∃ n data, decode c = .legal (.absorbb n data)) ↔
      c.word &&& 0x00FFFFFF#32 = 0x00000003#32 ∧ c.word.extractLsb' 24 8 ≤ 8#8) ∧
    ((∃ data, decode c = .legal (.final data)) ↔ c.word &&& 0xFFFFFFFF#32 = 0x00000004#32) ∧
    ((∃ data, decode c = .legal (.finalraw data)) ↔ c.word &&& 0xFFFFFFFF#32 = 0x00000005#32)

/-- A reserved opcode is illegal whatever the other fields hold, and raises IllegalCommand in every state (R75). -/
def Obligations.ReservedOpcodesAreIllegal : Prop :=
  ∀ (c : Command) (s : State), c.op = 0x0#4 ∨ 0x6#4 ≤ c.op →
    (∃ cause, decode c = .illegal cause) ∧ execute c s = .next (s.failedWith 4#4)

/-- A defined opcode with a nonzero "must be 0" field, or ABSORBB with LEN above 8, is illegal and raises IllegalCommand in
every state (R72, R76). -/
def Obligations.NonzeroFixedFieldsAreIllegal : Prop :=
  ∀ (c : Command) (s : State), 0x1#4 ≤ c.op → c.op ≤ 0x5#4 →
    (c.rsv ≠ 0#4 ∨
      (c.op ≠ 0x1#4 ∧ (c.c ≠ 0#8 ∨ c.d ≠ 0#8)) ∨
      (c.op ≠ 0x1#4 ∧ c.op ≠ 0x3#4 ∧ c.len ≠ 0#8) ∨
      (c.op = 0x3#4 ∧ 8#8 < c.len)) →
    (∃ cause, decode c = .illegal cause) ∧ execute c s = .next (s.failedWith 4#4)

/-- Bits of the data operand that a command does not use are ignored and never make it illegal (R71, R91). -/
def Obligations.UnusedDataBitsAreIgnored : Prop :=
  (∀ (w : CmdWord) (data data' : Data),
    (∃ i, decode { word := w, data := data } = .legal i) → ∃ i, decode { word := w, data := data' } = .legal i) ∧
  (∀ (data data' : Data) (s : State), data.extractLsb' 0 64 = data'.extractLsb' 0 64 →
    exec (.absorbw data) s = exec (.absorbw data') s) ∧
  (∀ (n : Byte) (data data' : Data) (s : State), (∀ i, i < n.toNat → lane data i = lane data' i) →
    exec (.absorbb n data) s = exec (.absorbb n data') s) ∧
  (∀ (data data' : Data) (s : State), exec (.final data) s = exec (.final data') s) ∧
  (∀ (data data' : Data) (s : State), exec (.finalraw data) s = exec (.finalraw data') s)

/-! ### The datapath -/

/-- The adder is addition modulo 2 to the 64, commutative, with R100's corner cases (R100). -/
def Obligations.AdderWraps : Prop :=
  (∀ a b : Word, (add64 a b).toNat = (a.toNat + b.toNat) % 2 ^ 64 ∧ add64 a b = add64 b a) ∧
  add64 0xFFFFFFFFFFFFFFFF#64 1#64 = 0#64 ∧ add64 0x8000000000000000#64 0x8000000000000000#64 = 0#64

/-- The barrel shifter: its defining equations; bit i of the result is bit (i - n) mod 64 of the operand; 32 swaps the halves
(R102). -/
def Obligations.RotateMovesBits : Prop :=
  (∀ x : Word, rotl x 0#6 = x) ∧
  (∀ (x : Word) (n : BitVec 6), n ≠ 0#6 → rotl x n = (x <<< n.toNat) ||| (x >>> (64 - n.toNat))) ∧
  (∀ (x : Word) (n : BitVec 6) (i : Nat), i < 64 → (rotl x n).getLsbD i = x.getLsbD ((i + 64 - n.toNat) % 64)) ∧
  (∀ x : Word, rotl x 32#6 = x.extractLsb' 0 32 ++ x.extractLsb' 32 32) ∧
  rotl 0x8000000000000000#64 1#6 = 1#64

/-- SipRound is a permutation of the 2^256 states, it fixes the zero state, and on the INIT state of the reference key it gives
V-SR-2 (R104). -/
def Obligations.SipRoundIsAPermutation : Prop :=
  Function.Bijective sipRound ∧
  sipRound { v0 := 0#64, v1 := 0#64, v2 := 0#64, v3 := 0#64 } = { v0 := 0#64, v1 := 0#64, v2 := 0#64, v3 := 0#64 } ∧
  sipRound { v0 := 0x7469686173716475#64, v1 := 0x6b617f6d656e6665#64,
             v2 := 0x6b7f62616d677361#64, v3 := 0x7b6b696e727e6c7b#64 } =
    { v0 := 0x6864848c93698c85#64, v1 := 0x41d43f143c94a7dc#64, v2 := 0xf3f94792d7121732#64, v3 := 0x5e52f75805987c12#64 }

/-- The one-bit inputs of V-SR-3 to V-SR-6 and the all-ones input of V-SR-7 (R103; 95_test_vectors.md). -/
def Obligations.SipRoundUnitVectors : Prop :=
  sipRound { v0 := 1#64, v1 := 0#64, v2 := 0#64, v3 := 0#64 } =
    { v0 := 0x0000000100000000#64, v1 := 0x0000000000020001#64, v2 := 0x0000000100000000#64, v3 := 0x0000000100000000#64 } ∧
  sipRound { v0 := 0#64, v1 := 1#64, v2 := 0#64, v3 := 0#64 } =
    { v0 := 0x0000000100000000#64, v1 := 0x0000000040022001#64, v2 := 0x0000200100000000#64, v3 := 0x0000000100000000#64 } ∧
  sipRound { v0 := 0#64, v1 := 0#64, v2 := 1#64, v3 := 0#64 } =
    { v0 := 0x0000000000000001#64, v1 := 0x0000000000000001#64, v2 := 0x0000000100000000#64, v3 := 0x0000000000200001#64 } ∧
  sipRound { v0 := 0#64, v1 := 0#64, v2 := 0#64, v3 := 1#64 } =
    { v0 := 0x0000000000010001#64, v1 := 0x0000000000000001#64, v2 := 0x0000000100000000#64, v3 := 0x0000002000210001#64 } ∧
  sipRound { v0 := 0xffffffffffffffff#64, v1 := 0xffffffffffffffff#64,
             v2 := 0xffffffffffffffff#64, v3 := 0xffffffffffffffff#64 } =
    { v0 := 0xffffffff00000000#64, v1 := 0xfffffffffffdffff#64, v2 := 0xffffffffffffffff#64, v3 := 0xffffffff00200000#64 }

/-- The round sequencer is the k-fold iterate of SipRound; and where the commands call it, in a state that meets the
invariant, the round counts are at least 1 (R105, R24). -/
def Obligations.RoundsIterateSipRound : Prop :=
  (∀ (v : SipState) (k : Nat), rounds v k = sipRound^[k] v) ∧
  (∀ s : State, Inv s → s.inSession → 1 ≤ s.cfgC.toNat ∧ 1 ≤ s.cfgD.toNat)

/-- AbsorbCore: `v3 ^= m`, SipRound exactly c times, then `v0 ^= m` (R106). -/
def Obligations.AbsorbCoreMixesOneWord : Prop :=
  ∀ (v : SipState) (m : Word) (c : Byte),
    absorbCore v m c =
      { v0 := (sipRound^[c.toNat] { v with v3 := v.v3 ^^^ m }).v0 ^^^ m
        v1 := (sipRound^[c.toNat] { v with v3 := v.v3 ^^^ m }).v1
        v2 := (sipRound^[c.toNat] { v with v3 := v.v3 ^^^ m }).v2
        v3 := (sipRound^[c.toNat] { v with v3 := v.v3 ^^^ m }).v3 }

/-- FinalizeCore: `v2 ^= 0xff`, SipRound exactly d times, output `v0 ^ v1 ^ v2 ^ v3` (R108). -/
def Obligations.FinalizeCoreYieldsTheOutput : Prop :=
  ∀ (v : SipState) (d : Byte),
    (finalizeCore v d).1 = sipRound^[d.toNat] { v with v2 := v.v2 ^^^ 0xFF#64 } ∧
    (finalizeCore v d).2 =
      (finalizeCore v d).1.v0 ^^^ (finalizeCore v d).1.v1 ^^^ (finalizeCore v d).1.v2 ^^^ (finalizeCore v d).1.v3

/-- Absorbing a given word and finalizing are permutations of the register file, for every round count: no state is lost
(from R104, R106, R108). -/
def Obligations.AbsorbingLosesNoState : Prop :=
  (∀ (m : Word) (c : Byte), Function.Bijective (fun v => absorbCore v m c)) ∧
  (∀ d : Byte, Function.Bijective (fun v => (finalizeCore v d).1))

/-! ### INIT -/

/-- INIT: what a successful one writes and all it leaves, and its errors in order; which command words are an INIT and where its
operands stand; a nonzero RSV is illegal; the example (R121). -/
def Obligations.InitResult : Prop :=
  (∀ (c d : Byte) (key : Data) (s : State), c ≠ 0#8 → d ≠ 0#8 →
    exec (.init c d 16#8 key) s =
      .next { s with
        v := { v0 := 0x736f6d6570736575#64 ^^^ key.extractLsb' 0 64
               v1 := 0x646f72616e646f6d#64 ^^^ key.extractLsb' 64 64
               v2 := 0x6c7967656e657261#64 ^^^ key.extractLsb' 0 64
               v3 := 0x7465646279746573#64 ^^^ key.extractLsb' 64 64 }
        cfgC := c, cfgD := d, buf := 0#56, bufN := 0#3, lenLo := 0#8, phase := .initialized, lastErr := 0#4
        channel := .responding, rspErr := 0#4, rspData := 0#64 }) ∧
  (∀ (c d klen : Byte) (key : Data) (s : State), klen ≠ 16#8 →
    exec (.init c d klen key) s = .next (s.failedWith 1#4)) ∧
  (∀ (c d : Byte) (key : Data) (s : State), c = 0#8 ∨ d = 0#8 →
    exec (.init c d 16#8 key) s = .next (s.failedWith 2#4)) ∧
  (∀ (cmd : Command) (s : State), cmd.word &&& 0x000000FF#32 = 0x00000001#32 →
    execute cmd s =
      exec (.init (cmd.word.extractLsb' 8 8) (cmd.word.extractLsb' 16 8) (cmd.word.extractLsb' 24 8) cmd.data) s) ∧
  (∀ (cmd : Command) (s : State), cmd.op = 0x1#4 → cmd.rsv ≠ 0#4 → execute cmd s = .next (s.failedWith 4#4)) ∧
  (∀ s : State, ∃ t, execute { word := 0x10040201#32, data := 0x0f0e0d0c0b0a09080706050403020100#128 } s = .next t ∧
    t.v = { v0 := 0x7469686173716475#64, v1 := 0x6b617f6d656e6665#64,
            v2 := 0x6b7f62616d677361#64, v3 := 0x7b6b696e727e6c7b#64 })

/-- The register file after INIT under the all-zero, the all-0xff and the reference key (R122; R121's example). -/
def Obligations.InitCornerKeys : Prop :=
  ∀ (c d : Byte) (s : State), c ≠ 0#8 → d ≠ 0#8 →
    (∃ t, exec (.init c d 16#8 0#128) s = .next t ∧
      t.v = { v0 := 0x736f6d6570736575#64, v1 := 0x646f72616e646f6d#64,
              v2 := 0x6c7967656e657261#64, v3 := 0x7465646279746573#64 }) ∧
    (∃ t, exec (.init c d 16#8 (BitVec.allOnes 128)) s = .next t ∧
      t.v = { v0 := ~~~0x736f6d6570736575#64, v1 := ~~~0x646f72616e646f6d#64,
              v2 := ~~~0x6c7967656e657261#64, v3 := ~~~0x7465646279746573#64 }) ∧
    (∃ t, exec (.init c d 16#8 0x0f0e0d0c0b0a09080706050403020100#128) s = .next t ∧
      t.v = { v0 := 0x7469686173716475#64, v1 := 0x6b617f6d656e6665#64,
              v2 := 0x6b7f62616d677361#64, v3 := 0x7b6b696e727e6c7b#64 })

/-! ### ABSORBW and ABSORBB -/

/-- ABSORBW: the word absorbed with CFG_C rounds, LEN_LO, PHASE and LAST_ERR written and all else left; its two InvalidState
causes; its command word, and that nonzero operand fields are illegal (R130). -/
def Obligations.AbsorbwResult : Prop :=
  (∀ (data : Data) (s : State), s.inSession → s.bufN = 0#3 →
    exec (.absorbw data) s =
      .next { s with
        v := absorbCore s.v (data.extractLsb' 0 64) s.cfgC, lenLo := s.lenLo + 8#8, phase := .absorbing, lastErr := 0#4
        channel := .responding, rspErr := 0#4, rspData := 0#64 }) ∧
  (∀ (data : Data) (s : State), ¬ s.inSession → exec (.absorbw data) s = .next (s.failedWith 3#4)) ∧
  (∀ (data : Data) (s : State), s.bufN ≠ 0#3 → exec (.absorbw data) s = .next (s.failedWith 3#4)) ∧
  (∀ (data : Data) (s : State), execute { word := 0x00000002#32, data := data } s = exec (.absorbw data) s) ∧
  (∀ (cmd : Command) (s : State), cmd.op = 0x2#4 → cmd.word.extractLsb' 4 28 ≠ 0#28 →
    execute cmd s = .next (s.failedWith 4#4))

/-- ABSORBW of 0 applies CFG_C SipRounds and nothing else to the register file (R93). -/
def Obligations.AbsorbwOfZeroOnlyMixes : Prop :=
  ∀ (data : Data) (s : State), s.inSession → s.bufN = 0#3 → data.extractLsb' 0 64 = 0#64 →
    ∃ t, exec (.absorbw data) s = .next t ∧ t.v = sipRound^[s.cfgC.toNat] s.v

/-- PackByte, where BUF holds the bytes `p`: a byte that leaves the block short is appended in message order; the eighth
absorbs LE64 of the eight bytes with CFG_C rounds and empties the buffer; LEN_LO counts it; nothing else changes (R132, R25). -/
def Obligations.PackByteAppends : Prop :=
  ∀ (p : List Byte) (b : Byte) (s : State), p.length = s.bufN.toNat → s.buf = le 56 p →
    (s.bufN ≠ 7#3 →
      packByte s b = { s with buf := le 56 (p ++ [b]), bufN := s.bufN + 1#3, lenLo := s.lenLo + 1#8 }) ∧
    (s.bufN = 7#3 →
      packByte s b =
        { s with v := absorbCore s.v (le 64 (p ++ [b])) s.cfgC, buf := 0#56, bufN := 0#3, lenLo := s.lenLo + 1#8 })

/-- ABSORBB: lanes 0 to n-1 through the byte packer in increasing order, PHASE and LAST_ERR written; its InvalidState cause;
its command words, and that nonzero fields and counts above 8 are illegal (R133). -/
def Obligations.AbsorbbResult : Prop :=
  (∀ (n : Byte) (data : Data) (s : State), n ≤ 8#8 → s.inSession →
    exec (.absorbb n data) s =
      .next { ((List.range n.toNat).foldl (fun u i => packByte u (data.extractLsb' (8 * i) 8)) s) with
        phase := .absorbing, lastErr := 0#4, channel := .responding, rspErr := 0#4, rspData := 0#64 }) ∧
  (∀ (n : Byte) (data : Data) (s : State), n ≤ 8#8 → ¬ s.inSession →
    exec (.absorbb n data) s = .next (s.failedWith 3#4)) ∧
  (∀ (cmd : Command) (s : State), cmd.word &&& 0x00FFFFFF#32 = 0x00000003#32 → cmd.word.extractLsb' 24 8 ≤ 8#8 →
    execute cmd s = exec (.absorbb (cmd.word.extractLsb' 24 8) cmd.data) s) ∧
  (∀ (cmd : Command) (s : State), cmd.op = 0x3#4 → (cmd.word.extractLsb' 4 20 ≠ 0#20 ∨ 8#8 < cmd.len) →
    execute cmd s = .next (s.failedWith 4#4))

/-- A successful ABSORBB of n bytes where BUF holds the bytes `p`: below eight bytes in all it only buffers them; from eight on
it absorbs exactly one block, LE64 of the first eight, and holds the rest; CFG_C, CFG_D, RESULT and ERRS are left (R133). -/
def Obligations.AbsorbbAbsorbsAtMostOneBlock : Prop :=
  ∀ (n : Byte) (data : Data) (p : List Byte) (s : State),
    n ≤ 8#8 → s.inSession → p.length = s.bufN.toNat → s.buf = le 56 p →
    (p.length + n.toNat < 8 →
      exec (.absorbb n data) s =
        .next { s with
          buf := le 56 (p ++ lanes data n.toNat), bufN := BitVec.ofNat 3 (p.length + n.toNat)
          lenLo := s.lenLo + n, phase := .absorbing, lastErr := 0#4
          channel := .responding, rspErr := 0#4, rspData := 0#64 }) ∧
    (8 ≤ p.length + n.toNat →
      exec (.absorbb n data) s =
        .next { s with
          v := absorbCore s.v (le 64 ((p ++ lanes data n.toNat).take 8)) s.cfgC
          buf := le 56 ((p ++ lanes data n.toNat).drop 8), bufN := BitVec.ofNat 3 (p.length + n.toNat - 8)
          lenLo := s.lenLo + n, phase := .absorbing, lastErr := 0#4
          channel := .responding, rspErr := 0#4, rspData := 0#64 })

/-- ABSORBB of eight bytes on an empty buffer is ABSORBW of the same operand; ABSORBB of none changes PHASE and LAST_ERR
alone (R134). -/
def Obligations.AbsorbbOfEightAndOfNone : Prop :=
  (∀ (data : Data) (s : State), s.bufN = 0#3 → s.buf = 0#56 → exec (.absorbb 8#8 data) s = exec (.absorbw data) s) ∧
  (∀ (data : Data) (s : State), s.inSession →
    exec (.absorbb 0#8 data) s =
      .next { s with phase := .absorbing, lastErr := 0#4, channel := .responding, rspErr := 0#4, rspData := 0#64 })

/-! ### FINAL and FINALRAW -/

/-- PadWord: BUF below LEN_LO; and where BUF holds the bytes `p`, the leftover bytes, zero bytes up to seven, and LEN_LO as the
eighth byte (R150). -/
def Obligations.PadWordPlacesTheLength : Prop :=
  (∀ s : State, padWord s = s.buf.setWidth 64 ||| (s.lenLo.setWidth 64 <<< 56) ∧ byteOf (padWord s) 7 = s.lenLo) ∧
  (∀ (p : List Byte) (s : State), p.length ≤ 7 → s.buf = le 56 p →
    padWord s = le 64 (p ++ List.replicate (7 - p.length) 0#8 ++ [s.lenLo]))

/-- FINAL: the padded block absorbed, the state finalized, RESULT and the response the output, the buffer emptied, LEN_LO,
CFG_C and CFG_D left; its InvalidState cause, with RESULT left; its command word, and that nonzero fields are illegal (R151). -/
def Obligations.FinalResult : Prop :=
  (∀ (data : Data) (s : State), s.inSession →
    exec (.final data) s =
      .next { s with
        v := (finalizeCore (absorbCore s.v (padWord s) s.cfgC) s.cfgD).1
        result := (finalizeCore (absorbCore s.v (padWord s) s.cfgC) s.cfgD).2
        buf := 0#56, bufN := 0#3, phase := .finalized, lastErr := 0#4, channel := .responding, rspErr := 0#4
        rspData := (finalizeCore (absorbCore s.v (padWord s) s.cfgC) s.cfgD).2 }) ∧
  (∀ (data : Data) (s : State), ¬ s.inSession → exec (.final data) s = .next (s.failedWith 3#4)) ∧
  (∀ (data : Data) (s : State), execute { word := 0x00000004#32, data := data } s = exec (.final data) s) ∧
  (∀ (cmd : Command) (s : State), cmd.op = 0x4#4 → cmd.word.extractLsb' 4 28 ≠ 0#28 →
    execute cmd s = .next (s.failedWith 4#4))

/-- FINALRAW: the state finalized as it stands, RESULT and the response the output, BUF, BUF_N and LEN_LO left; its two
InvalidState causes; its command word, and that nonzero fields are illegal (R153). -/
def Obligations.FinalrawResult : Prop :=
  (∀ (data : Data) (s : State), s.inSession → s.bufN = 0#3 →
    exec (.finalraw data) s =
      .next { s with
        v := (finalizeCore s.v s.cfgD).1, result := (finalizeCore s.v s.cfgD).2, phase := .finalized, lastErr := 0#4
        channel := .responding, rspErr := 0#4, rspData := (finalizeCore s.v s.cfgD).2 }) ∧
  (∀ (data : Data) (s : State), ¬ s.inSession → exec (.finalraw data) s = .next (s.failedWith 3#4)) ∧
  (∀ (data : Data) (s : State), s.bufN ≠ 0#3 → exec (.finalraw data) s = .next (s.failedWith 3#4)) ∧
  (∀ (data : Data) (s : State), execute { word := 0x00000005#32, data := data } s = exec (.finalraw data) s) ∧
  (∀ (cmd : Command) (s : State), cmd.op = 0x5#4 → cmd.word.extractLsb' 4 28 ≠ 0#28 →
    execute cmd s = .next (s.failedWith 4#4))

/-- FINALRAW and FINAL differ exactly by the AbsorbCore(PadWord()) step: on an empty buffer, FINAL is FINALRAW of the state with
the padded block absorbed (R154). -/
def Obligations.FinalIsPadThenFinalraw : Prop :=
  ∀ (data : Data) (s : State), s.bufN = 0#3 → s.buf = 0#56 → s.inSession →
    exec (.final data) s = exec (.finalraw data) { s with v := absorbCore s.v (padWord s) s.cfgC }

/-- In Finalized every command but INIT raises InvalidState and leaves v0-v3 and RESULT readable as they are; and only a
successful INIT leaves Finalized (R156, R175). -/
def Obligations.FinalizedIsTerminal : Prop :=
  (∀ (i : Instr) (s : State), i.wellFormed = true → (∀ c d klen key, i ≠ .init c d klen key) → s.phase = .finalized →
    exec i s = .next (s.failedWith 3#4)) ∧
  (∀ (c : Command) (s t : State), s.phase = .finalized → execute c s = .next t → t.phase ≠ .finalized →
    (∃ cr dr key, decode c = .legal (.init cr dr 16#8 key)) ∧ t.phase = .initialized ∧ t.rspErr = 0#4)

/-! ### Errors and responses -/

/-- A command that fails writes LAST_ERR and ERRS, responds with its code and 0, and writes no other register; and which error it
reports, if any, depends on the command word, PHASE and BUF_N alone (R174). -/
def Obligations.FailureWritesOnlyErrorRegisters : Prop :=
  (∀ (c : Command) (s t : State), execute c s = .next t → t.rspErr ≠ 0#4 → t = s.failedWith t.rspErr) ∧
  (∀ (c c' : Command) (s s' t t' : State), c.word = c'.word → s.phase = s'.phase → s.bufN = s'.bufN →
    execute c s = .next t → execute c' s' = .next t' → t.rspErr = t'.rspErr)

/-- Every command reports the first applicable error in the order IllegalCommand, InvalidState (PHASE before BUF_N),
InvalidKeyLength, InvalidRoundCount, and only that one; with none it succeeds (R178). -/
def Obligations.FirstApplicableErrorIsReported : Prop :=
  ∀ (c : Command) (s : State), ∃ t, execute c s = .next t ∧
    match firstError c s with
    | some e => t = s.failedWith e.code
    | none => t.rspErr = 0#4

/-- The session state machine, entry by entry: the next PHASE on success, or the error raised with PHASE unchanged, in every
state in which Initialized means an empty buffer; every command leaves such a state, and reset is one (R43). -/
def Obligations.SessionStateMachine : Prop :=
  (State.reset.phase = .initialized → State.reset.bufN = 0#3) ∧
  ∀ (c : Command) (s : State), (s.phase = .initialized → s.bufN = 0#3) →
    ∃ t, execute c s = .next t ∧ (t.phase = .initialized → t.bufN = 0#3) ∧
      match decode c with
      | .illegal _ => t.phase = s.phase ∧ t.rspErr = 4#4
      | .legal i =>
        match sessionTable i s.phase s.bufN with
        | .ok p => t.phase = p ∧ t.rspErr = 0#4
        | .error e => t.phase = s.phase ∧ t.rspErr = e.code

/-- On success every command writes LAST_ERR <- 0 and leaves ERRS; LAST_ERR gives the outcome of the most recent command; and
after any commands from reset, ERRS is 1 exactly when some of them failed (R179). -/
def Obligations.ErrsRemembersEveryFailure : Prop :=
  (∀ (c : Command) (s t : State), execute c s = .next t →
    t.lastErr = t.rspErr ∧ (t.rspErr = 0#4 → t.lastErr = 0#4 ∧ t.errs = s.errs)) ∧
  (∀ (cs : List Command) (t : State), runCommands cs State.reset = .next t →
    (t.errs = true ↔ ∃ r ∈ responses cs State.reset, r.1 ≠ 0#4))

/-- Every command leaves a response: its code is one of 0 to 4, and its data is the output for a successful FINAL or FINALRAW
and 0 for every other (R171, R176). -/
def Obligations.ResponsesCarryOutputsOnly : Prop :=
  ∀ (c : Command) (s t : State), execute c s = .next t →
    t.channel = .responding ∧ t.rspErr ≤ 4#4 ∧
    (t.rspErr = 0#4 → (c.op = 0x4#4 ∨ c.op = 0x5#4) → t.rspData = t.result ∧ t.result = foldOut t.v) ∧
    (¬ (t.rspErr = 0#4 ∧ (c.op = 0x4#4 ∨ c.op = 0x5#4)) → t.rspData = 0#64)

/-- An error is not transient: the same command on the state it left fails the same way and changes nothing more (R170). -/
def Obligations.FailureRepeats : Prop :=
  ∀ (c : Command) (s t : State), execute c s = .next t → t.rspErr ≠ 0#4 → execute c t = .next t

/-- Execute is total: every command on every state gives a next state with a response, the meaning of the decoded instruction or
IllegalCommand; and no step faults or refuses (R80). -/
def Obligations.ExecuteIsTotal : Prop :=
  (∀ (c : Command) (i : Instr) (s : State), decode c = .legal i → execute c s = exec i s) ∧
  (∀ (c : Command) (cause : IllegalCause) (s : State), decode c = .illegal cause →
    execute c s = .next (s.failedWith 4#4)) ∧
  (∀ (c : Command) (s : State), ∃ t, execute c s = .next t ∧ t.channel = .responding) ∧
  (∀ s : State, ∃ t, step s = .next t)

/-- Who writes what: v0-v3 only a successful INIT, ABSORBW, FINAL, FINALRAW or block-completing ABSORBB; CFG_C and CFG_D only a
successful INIT, which writes the command's C and D; RESULT only a successful FINAL or FINALRAW; no command touches what the
host presents (R21, R24, R27). -/
def Obligations.OnlyTheirWritersWriteRegisters : Prop :=
  ∀ (c : Command) (s t : State), execute c s = .next t →
    (t.v ≠ s.v → t.rspErr = 0#4 ∧
      (c.op = 0x1#4 ∨ c.op = 0x2#4 ∨ c.op = 0x4#4 ∨ c.op = 0x5#4 ∨
        (c.op = 0x3#4 ∧ 8 ≤ s.bufN.toNat + c.len.toNat))) ∧
    (t.cfgC ≠ s.cfgC ∨ t.cfgD ≠ s.cfgD → t.rspErr = 0#4 ∧ c.op = 0x1#4) ∧
    (t.rspErr = 0#4 → c.op = 0x1#4 → t.cfgC = c.c ∧ t.cfgD = c.d) ∧
    (t.result ≠ s.result → t.rspErr = 0#4 ∧ (c.op = 0x4#4 ∨ c.op = 0x5#4)) ∧
    t.waiting = s.waiting ∧ t.inputs = s.inputs ∧ t.draws = s.draws

/-! ### Views and ports -/

/-- The STATUS view, field by field, with its reserved bits 0 (R30). -/
def Obligations.StatusViewFields : Prop :=
  ∀ s : State,
    (statusWord s).extractLsb' 0 2 = s.phase.code ∧
    (statusWord s).extractLsb' 2 1 = (if s.channel = .idle then 0#1 else 1#1) ∧
    (statusWord s).extractLsb' 3 1 = (if s.errs then 1#1 else 0#1) ∧
    (statusWord s).extractLsb' 4 4 = s.lastErr ∧
    (statusWord s).extractLsb' 8 3 = s.bufN ∧
    (statusWord s).extractLsb' 11 5 = 0#5 ∧
    (statusWord s).extractLsb' 16 8 = s.lenLo ∧
    (statusWord s).extractLsb' 24 8 = 0#8

/-- PHASE is numbered 0 to 3 (R23); state_o holds v0 to v3 from its low end (R20); cfg_o holds CFG_C below CFG_D, buf_o is BUF and
result_o is RESULT whenever no command is in execution (R31). -/
def Obligations.RegisterViewFields : Prop :=
  (Phase.idle.code = 0#2 ∧ Phase.initialized.code = 1#2 ∧ Phase.absorbing.code = 2#2 ∧ Phase.finalized.code = 3#2) ∧
  ∀ (cycle : Nat) (s : State), (∀ c, s.channel ≠ .executing c) →
    (observe cycle s).stateO.extractLsb' 0 64 = s.v.v0 ∧
    (observe cycle s).stateO.extractLsb' 64 64 = s.v.v1 ∧
    (observe cycle s).stateO.extractLsb' 128 64 = s.v.v2 ∧
    (observe cycle s).stateO.extractLsb' 192 64 = s.v.v3 ∧
    (observe cycle s).cfgO.extractLsb' 0 8 = s.cfgC ∧
    (observe cycle s).cfgO.extractLsb' 8 8 = s.cfgD ∧
    (observe cycle s).bufO = s.buf ∧
    (observe cycle s).resultO = s.result

/-- The ports: with no command in execution they show the registers on every cycle; with one in execution BUSY shows 1,
rsp_valid and cmd_ready are 0; cmd_ready is 1 exactly when rst_n = 1 and nothing is in execution or waits, and then BUSY shows
0; rsp_valid, rsp_err and rsp_data show the response that waits (R206, R207, R208). -/
def Obligations.PortsShowTheState : Prop :=
  ∀ (cycle : Nat) (s : State),
    ((∀ c, s.channel ≠ .executing c) →
      (observe cycle s).stateO = stateView s.v ∧ (observe cycle s).statusO = statusWord s ∧
      (observe cycle s).cfgO = cfgView s ∧ (observe cycle s).bufO = s.buf ∧ (observe cycle s).resultO = s.result) ∧
    (∀ c, s.channel = .executing c →
      (observe cycle s).statusO.extractLsb' 2 1 = 1#1 ∧ (observe cycle s).rspValid = false ∧
      (observe cycle s).cmdReady = false) ∧
    ((observe cycle s).cmdReady = true ↔ s.ports.rstN = true ∧ s.channel = .idle) ∧
    (s.channel = .idle → (observe cycle s).statusO.extractLsb' 2 1 = 0#1) ∧
    (s.channel = .responding →
      (observe cycle s).statusO.extractLsb' 2 1 = 1#1 ∧ (observe cycle s).rspValid = true ∧
      (observe cycle s).rspErr = s.rspErr ∧ (observe cycle s).rspData = s.rspData)

/-! ### Reset and the interface protocol -/

/-- The value of every piece of state after reset (R44). -/
def Obligations.ResetValues : Prop :=
  State.reset.v.v0 = 0#64 ∧ State.reset.v.v1 = 0#64 ∧ State.reset.v.v2 = 0#64 ∧ State.reset.v.v3 = 0#64 ∧
  State.reset.phase.code = 0#2 ∧ State.reset.cfgC = 0#8 ∧ State.reset.cfgD = 0#8 ∧ State.reset.buf = 0#56 ∧
  State.reset.bufN = 0#3 ∧ State.reset.lenLo = 0#8 ∧ State.reset.result = 0#64 ∧ State.reset.lastErr = 0#4 ∧
  State.reset.errs = false ∧ State.reset.cmdReady true = true ∧ State.reset.rspValid = false ∧
  State.reset.rspErr = 0#4 ∧ State.reset.rspData = 0#64 ∧ State.reset.busy = false

/-- At an edge with rst_n = 0, from every state, every architectural register takes its reset value, the command in execution
and any response are dropped, a command presented is not accepted, and cmd_ready is 0; and nothing but reset clears ERRS (R200,
R201). -/
def Obligations.ResetFromEveryState : Prop :=
  (∀ s t : State, step s = .next t → s.ports.rstN = true → s.errs = true → t.errs = true) ∧
  ∀ s : State, s.ports.rstN = false →
    s.cmdReady s.ports.rstN = false ∧
    ∃ t, step s = .next t ∧
      t.v = { v0 := 0#64, v1 := 0#64, v2 := 0#64, v3 := 0#64 } ∧ t.phase = .idle ∧ t.cfgC = 0#8 ∧ t.cfgD = 0#8 ∧
      t.buf = 0#56 ∧ t.bufN = 0#3 ∧ t.lenLo = 0#8 ∧ t.result = 0#64 ∧ t.lastErr = 0#4 ∧ t.errs = false ∧
      t.channel = .idle ∧ t.rspErr = 0#4 ∧ t.rspData = 0#64 ∧ t.inputs = s.inputs.tail

/-- An idle core whose host presents a command, and has presented no other since the last acceptance, accepts exactly that
command; no register changes (R205). That rsp_err and rsp_data hold there is the model's choice (log 7). -/
def Obligations.HeldCommandIsAccepted : Prop :=
  ∀ s : State, s.ports.rstN = true → s.channel = .idle → s.ports.cmdValid = true →
    (∀ c ∈ s.waiting, c = s.ports.cmd) →
    step s =
      .next { s with channel := .executing s.ports.cmd, waiting := [], inputs := s.inputs.tail, draws := s.draws + 1 }

/-- Whatever the host does, the word and the data of an accepted command are values it presented since the last acceptance
(R205; row 8 of 93_implementation_defined.md). That word and data may come from two offers is the model's choice (log 4). -/
def Obligations.AcceptedValuesWerePresented : Prop :=
  ∀ (s t : State) (c : Command), s.channel = .idle → step s = .next t → t.channel = .executing c →
    (∃ o ∈ s.offers s.ports, o.word = c.word) ∧ (∃ o ∈ s.offers s.ports, o.data = c.data)

/-- cmd_ready is 1 exactly when rst_n = 1, nothing is in execution and no response waits; BUSY is 1 when one of them is; a core
that is not ready accepts nothing, so at most one command is in flight (R206). Without reset a response is held until it is
transferred, and then the channel is idle (R207); and the step after acceptance is the one that responds, which is the model's
choice of a one-step execution (log 2). -/
def Obligations.OneCommandInFlight : Prop :=
  (∀ s : State, s.busy = true ↔ (∃ c, s.channel = .executing c) ∨ s.channel = .responding) ∧
  (∀ (rstN : Bool) (s : State), s.cmdReady rstN = true ↔
    rstN = true ∧ (∀ c, s.channel ≠ .executing c) ∧ s.channel ≠ .responding) ∧
  (∀ (s t : State) (c : Command), step s = .next t → s.cmdReady s.ports.rstN = false → t.channel ≠ .executing c) ∧
  (∀ (s t : State) (c : Command), step s = .next t → s.ports.rstN = true → s.channel = .executing c →
    t.channel = .responding) ∧
  (∀ (s t : State), step s = .next t → s.ports.rstN = true → s.channel = .responding →
    t.channel = if s.ports.rspReady then .idle else .responding)

/-- A response is held with its code and data until an edge with rsp_ready = 1, at which rsp_valid falls; either way no
register changes (R207). -/
def Obligations.ResponseIsHeldUntilTaken : Prop :=
  ∀ s : State, s.ports.rstN = true → s.channel = .responding →
    ∃ t, step s = .next t ∧ t.arch = s.arch ∧
      (s.ports.rspReady = false → t.channel = .responding ∧ t.rspErr = s.rspErr ∧ t.rspData = s.rspData) ∧
      (s.ports.rspReady = true → t.channel = .idle ∧ t.rspValid = false)

/-- Nothing but the completion of a command or reset changes an architectural register (R186). And an idle core whose list of
inputs is empty does not change at all: that the ports are then quiet, and that rsp_err and rsp_data are kept there, is the
model's choice (log 3, log 7). -/
def Obligations.OnlyCommandsAndResetChangeRegisters : Prop :=
  (∀ s t : State, step s = .next t → s.ports.rstN = true → (∀ c, s.channel ≠ .executing c) → t.arch = s.arch) ∧
  (∀ s : State, s.channel = .idle → s.waiting = [] → s.inputs = [] → step s = .next s)

/-- When the command in execution decodes to an instruction and rst_n = 1, the step is its meaning, on the state past this edge's
input sample and with a command presented at this edge noted as waiting; an illegal command raises IllegalCommand there. -/
def Obligations.StepRunsTheDecodedInstruction : Prop :=
  ∀ (s : State) (c : Command), s.channel = .executing c → s.ports.rstN = true →
    (∀ i, decode c = .legal i →
      step s = exec i { s with inputs := s.inputs.tail
                               waiting := s.waiting ++ (if s.ports.cmdValid then [s.ports.cmd] else []) }) ∧
    (∀ cause, decode c = .illegal cause →
      step s = .next (State.failedWith 4#4
        { s with inputs := s.inputs.tail
                 waiting := s.waiting ++ (if s.ports.cmdValid then [s.ports.cmd] else []) }))

/-- The step from `withFetchWord` runs the instruction the table's numbering of the bits gives, from every state (the model's
own loading of a command, log 1). -/
def Obligations.FetchWordRunsNext : Prop :=
  ∀ (s : State) (nbits w : Nat) (i : Instr), decodeTableWord nbits w = some i →
    step (s.withFetchWord nbits w) = exec i { s with channel := .executing (Command.ofBits nbits w) }

/-- One command through the handshake: accepted at the first edge with no register changed, then in effect and answered exactly as
Execute says, then its response taken and the core ready again (R60, R205, R206, R207). That it is answered at the second edge
is the model's choice of a one-step execution (log 2); R214 leaves the cycles open. -/
def Obligations.HandshakeIsOneExecute : Prop :=
  ∀ (c : Command) (rest : List PortsIn) (s : State),
    s.channel = .idle → s.waiting = [] → s.inputs = handshake c ++ rest →
    ∃ t s1 s2 s3, execute c s = .next t ∧
      step s = .next s1 ∧ s1.channel = .executing c ∧ s1.arch = s.arch ∧
      step s1 = .next s2 ∧ s2.arch = t.arch ∧ s2.responds t.rspErr t.rspData ∧
      step s2 = .next s3 ∧ s3.arch = t.arch ∧ s3.channel = .idle ∧ s3.waiting = [] ∧ s3.inputs = rest

/-- Sequential consistency: a host that sends its commands through the handshake, each as offer, quiet, take, has the left fold of
Execute over them as the core's registers, and the k-th response is up when the k-th command has completed (R61). The counts of
steps, 3k + 2 and 3n, rest on the model's choice of a one-step execution (log 2). -/
def Obligations.ScriptIsTheFoldOfExecute : Prop :=
  ∀ (cs : List Command) (rest : List PortsIn) (s : State),
    s.channel = .idle → s.waiting = [] → s.inputs = script cs ++ rest →
    (∃ t u, runCommands cs s = .next t ∧ Host.Core.run Sys2Proof.core (3 * cs.length) s = .next u ∧
      u.arch = t.arch ∧ u.channel = .idle ∧ u.waiting = [] ∧ u.inputs = rest) ∧
    (∀ k, k < cs.length →
      ∃ t w, runCommands (cs.take (k + 1)) s = .next t ∧ Host.Core.run Sys2Proof.core (3 * k + 2) s = .next w ∧
        w.arch = t.arch ∧ w.channel = .responding ∧ (responses cs s)[k]? = some (w.rspErr, w.rspData))

/-! ### The invariant -/

/-- The state after reset meets the invariant. -/
def Obligations.ResetMeetsTheInvariant : Prop := Inv State.reset

/-- Every step keeps the invariant: the bytes of BUF from BUF_N on are 0 (R25), the round counts are latched (R24), the buffer
tracks the length (R26), the error codes are legal and remembered (R171, R179), a waiting response agrees with LAST_ERR and
RESULT (R28, R176). -/
def Obligations.StepKeepsTheInvariant : Prop :=
  ∀ s t : State, Inv s → step s = .next t → Inv t

/-! ### Hashing -/

/-- The HASH expansion, with an ABSORBB or with an ABSORBW for each full chunk, from every state: every command succeeds, and the
response of FINAL, like RESULT, is SipHash-c-d of the message (R92). -/
def Obligations.HashProgramComputesSipHash : Prop :=
  ∀ (c d : Byte) (key msg : List Byte) (s : State), c ≠ 0#8 → d ≠ 0#8 → key.length = 16 →
    ∀ prog ∈ [hashProgram c d key msg, hashProgramW c d key msg],
      ∃ t, runCommands prog s = .next t ∧ t.result = sipHash c d key msg ∧ t.phase = .finalized ∧
        t.responds 0#4 (sipHash c d key msg) ∧ t.errs = s.errs ∧
        responses prog s = List.replicate (prog.length - 1) (0#4, 0#64) ++ [(0#4, sipHash c d key msg)]

/-- A host that chunks and pads the message itself and issues ABSORBW once per word and FINALRAW obtains the output of the
one-shot expansion (R131). -/
def Obligations.RawSurfaceEqualsOneShot : Prop :=
  ∀ (c d : Byte) (key msg : List Byte) (s : State), c ≠ 0#8 → d ≠ 0#8 → key.length = 16 →
    ∃ t u, runCommands (rawProgram c d key msg) s = .next t ∧ runCommands (hashProgram c d key msg) s = .next u ∧
      t.result = u.result ∧ t.responds 0#4 u.rspData ∧ u.responds 0#4 u.result

/-- Message intake from a fresh session, by words (R57) and by bytes (R135) in any mixture the block boundary allows: all commands
succeed, and what is left depends on the concatenated message alone: its full little-endian words absorbed in order, its
trailing bytes in BUF, their number in BUF_N, its length modulo 256 in LEN_LO. -/
def Obligations.IntakeDependsOnTheMessageAlone : Prop :=
  ∀ (pieces : List Intake) (s : State),
    s.phase = .initialized → s.buf = 0#56 → s.bufN = 0#3 → s.lenLo = 0#8 → intakeAllowed 0 pieces = true →
    ∃ t, runCommands (pieces.map Intake.command) s = .next t ∧
      responses (pieces.map Intake.command) s = List.replicate pieces.length (0#4, 0#64) ∧
      t.v = absorbWords s.cfgC s.v (fullWords (pieces.flatMap Intake.message)) ∧
      t.buf = le 56 (tailBytes (pieces.flatMap Intake.message)) ∧
      t.bufN.toNat = (pieces.flatMap Intake.message).length % 8 ∧
      t.lenLo.toNat = (pieces.flatMap Intake.message).length % 256 ∧
      (pieces ≠ [] → t.phase = .absorbing) ∧ t.cfgC = s.cfgC ∧ t.cfgD = s.cfgD ∧ t.result = s.result ∧ t.errs = s.errs

/-- A message of L bytes is floor(L/8) + 1 = ceil((L+1)/8) blocks, the last with L mod 256 as its top byte (R155, R150). -/
def Obligations.BlockCountLaw : Prop :=
  ∀ msg : List Byte,
    (paddedWords msg).length = msg.length / 8 + 1 ∧ (paddedWords msg).length = (msg.length + 1 + 7) / 8 ∧
    ∃ ws w, paddedWords msg = ws ++ [w] ∧ (byteOf w 7).toNat = msg.length % 256

/-- The known answers of V-FN under the reference key: lengths 0, 1, 7, 8, 9, 15 and 16, SipHash-2-4, and SipHash-1-3 of
length 8 (95_test_vectors.md). -/
def Obligations.KnownAnswers : Prop :=
  let key : List Byte := (List.range 16).map (BitVec.ofNat 8)
  let msg (n : Nat) : List Byte := (List.range n).map (BitVec.ofNat 8)
  sipHash 2#8 4#8 key (msg 0) = 0x726fdb47dd0e0e31#64 ∧
  sipHash 2#8 4#8 key (msg 1) = 0x74f839c593dc67fd#64 ∧
  sipHash 2#8 4#8 key (msg 7) = 0xab0200f58b01d137#64 ∧
  sipHash 2#8 4#8 key (msg 8) = 0x93f5f5799a932462#64 ∧
  sipHash 2#8 4#8 key (msg 9) = 0x9e0082df0ba9e4b0#64 ∧
  sipHash 2#8 4#8 key (msg 15) = 0xa129ca6149be45e5#64 ∧
  sipHash 2#8 4#8 key (msg 16) = 0x3f2acc7f57c29bdb#64 ∧
  sipHash 1#8 3#8 key (msg 8) = 0x369095118d299a8e#64

/-- The reference latency, in clock cycles, of every command: CMD_OVERHEAD for an error, for INIT and for an ABSORBB that
completes no block; for ABSORBW, an ABSORBB that completes a block, FINAL and FINALRAW, ROUND_CYCLES more for each of their
rounds (R214). It is a function beside the machine: no step reads it (R215; log 15). -/
def Obligations.ReferenceLatencies : Prop :=
  ∀ (c : Command) (s t : State), execute c s = .next t →
    (t.rspErr ≠ 0#4 → latency c s = Config.cmdOverhead) ∧
    (t.rspErr = 0#4 →
      (c.op = 0x1#4 → latency c s = Config.cmdOverhead) ∧
      (c.op = 0x2#4 → latency c s = Config.cmdOverhead + s.cfgC.toNat * Config.roundCycles) ∧
      (c.op = 0x3#4 → s.bufN.toNat + c.len.toNat < 8 → latency c s = Config.cmdOverhead) ∧
      (c.op = 0x3#4 → 8 ≤ s.bufN.toNat + c.len.toNat →
        latency c s = Config.cmdOverhead + s.cfgC.toNat * Config.roundCycles) ∧
      (c.op = 0x4#4 →
        latency c s = Config.cmdOverhead + (s.cfgC.toNat + s.cfgD.toNat) * Config.roundCycles) ∧
      (c.op = 0x5#4 → latency c s = Config.cmdOverhead + s.cfgD.toNat * Config.roundCycles))
end

