-- ==== Sys2Proof/Laws/Decode.lean ====
section
/-!
SUPPORT. Fields of command words: how the fields the decoder reads lie in the words the encoder writes, and that the fields
make up the word.
-/

namespace Sys2Proof

/-- Two concatenations of fields agree when the fields do. -/
theorem append_inj {n m : Nat} {a a' : BitVec n} {b b' : BitVec m} : a ++ b = a' ++ b' ↔ a = a' ∧ b = b' := by
  refine ⟨fun h => ⟨?_, ?_⟩, fun ⟨ha, hb⟩ => by rw [ha, hb]⟩
  · have := congrArg (·.extractLsb' m n) h
    simpa only [BitVec.extractLsb'_append_eq_left] using this
  · have := congrArg (·.extractLsb' 0 m) h
    simpa only [BitVec.extractLsb'_append_eq_right] using this

/-- A command word is its five fields (R70). -/
theorem Command.word_eq_fields (c : Command) : c.word = c.len ++ c.d ++ c.c ++ c.rsv ++ c.op := by
  apply BitVec.eq_of_getLsbD_eq
  intro i hi
  simp only [len, d, Command.c, rsv, op, BitVec.getLsbD_append, BitVec.getLsbD_extractLsb']
  split
  · simp_all
  · split
    · have : i - 4 < 4 := by omega
      have h : 4 + (i - 4) = i := by omega
      simp [this, h]
    · split
      · have : i - 4 - 4 < 8 := by omega
        have h : 8 + (i - 4 - 4) = i := by omega
        simp [this, h]
      · split
        · have : i - 4 - 4 - 8 < 8 := by omega
          have h : 16 + (i - 4 - 4 - 8) = i := by omega
          simp [this, h]
        · have : i - 4 - 4 - 8 - 8 < 8 := by omega
          have h : 24 + (i - 4 - 4 - 8 - 8) = i := by omega
          simp [this, h]

/-- A word put together from fields has those fields. -/
theorem Command.fields_of_word {c : Command} {l d r : Byte} {v o : BitVec 4} (h : c.word = l ++ d ++ r ++ v ++ o) :
    c.op = o ∧ c.rsv = v ∧ c.c = r ∧ c.d = d ∧ c.len = l := by
  rw [c.word_eq_fields] at h
  obtain ⟨h, ho⟩ := append_inj.mp h
  obtain ⟨h, hv⟩ := append_inj.mp h
  obtain ⟨h, hr⟩ := append_inj.mp h
  obtain ⟨hl, hd⟩ := append_inj.mp h
  exact ⟨ho, hv, hr, hd, hl⟩

/-- Two command words with the same fields are the same. -/
theorem Command.word_ext {c c' : Command} (h0 : c.op = c'.op) (h1 : c.rsv = c'.rsv) (h2 : c.c = c'.c) (h3 : c.d = c'.d)
    (h4 : c.len = c'.len) : c.word = c'.word := by
  rw [c.word_eq_fields, c'.word_eq_fields, h0, h1, h2, h3, h4]

/-- C and D are 0 when bits 23..8 are, and only then. -/
theorem Command.noRounds_iff (c : Command) : c.noRounds = true ↔ c.c = 0#8 ∧ c.d = 0#8 := by
  have e : c.word.extractLsb' 8 16 = c.d ++ c.c := by
    apply BitVec.eq_of_getLsbD_eq
    intro i hi
    simp only [d, Command.c, BitVec.getLsbD_append, BitVec.getLsbD_extractLsb', hi, decide_true, Bool.true_and]
    split
    · simp_all
    · have : i - 8 < 8 := by omega
      have h : 16 + (i - 8) = 8 + i := by omega
      simp [this, h]
  rw [noRounds, e, beq_iff_eq, show (0#16 : BitVec 16) = 0#8 ++ 0#8 from rfl]
  exact append_inj.trans and_comm

/-- C, D and LEN are 0 when bits 31..8 are, and only then. -/
theorem Command.noOperands_iff (c : Command) : c.noOperands = true ↔ c.c = 0#8 ∧ c.d = 0#8 ∧ c.len = 0#8 := by
  have e : c.word.extractLsb' 8 24 = c.len ++ (c.d ++ c.c) := by
    apply BitVec.eq_of_getLsbD_eq
    intro i hi
    simp only [d, Command.c, len, BitVec.getLsbD_append, BitVec.getLsbD_extractLsb', hi, decide_true, Bool.true_and]
    split
    · split
      · simp_all
      · have : i - 8 < 8 := by omega
        have h : 16 + (i - 8) = 8 + i := by omega
        simp [this, h]
    · have : i - 16 < 8 := by omega
      have h : 24 + (i - 16) = 8 + i := by omega
      simp [this, h]
  rw [noOperands, e, beq_iff_eq, show (0#24 : BitVec 24) = 0#8 ++ (0#8 ++ 0#8) from rfl]
  refine append_inj.trans ⟨fun ⟨hl, h⟩ => ?_, fun ⟨hc, hd, hl⟩ => ⟨hl, append_inj.mpr ⟨hd, hc⟩⟩⟩
  exact ⟨(append_inj.mp h).2, (append_inj.mp h).1, hl⟩

/-- Where the encoder puts the fields of INIT. -/
theorem encode_init_fields (c d klen : Byte) (key : Data) :
    (encode (.init c d klen key)).op = 1#4 ∧ (encode (.init c d klen key)).rsv = 0#4 ∧
    (encode (.init c d klen key)).c = c ∧ (encode (.init c d klen key)).d = d ∧
    (encode (.init c d klen key)).len = klen := by
  simp only [encode, encodeWord, Command.op, Command.rsv, Command.c, Command.d, Command.len]
  refine ⟨?_, ?_, ?_, ?_, ?_⟩
  · rw [BitVec.extractLsb'_append_eq_of_add_le (by decide)]; rfl
  · rw [BitVec.extractLsb'_append_eq_of_add_le (by decide)]; rfl
  · rw [BitVec.extractLsb'_append_eq_of_le (by decide)]; exact BitVec.extractLsb'_append_eq_right
  · rw [BitVec.extractLsb'_append_eq_of_le (by decide), BitVec.extractLsb'_append_eq_of_le (by decide)]
    exact BitVec.extractLsb'_append_eq_right
  · rw [BitVec.extractLsb'_append_eq_of_le (by decide), BitVec.extractLsb'_append_eq_of_le (by decide)]
    exact BitVec.extractLsb'_append_eq_left

/-- Where the encoder puts the count of ABSORBB. -/
theorem encode_absorbb_fields (n : Byte) (data : Data) :
    (encode (.absorbb n data)).op = 3#4 ∧ (encode (.absorbb n data)).rsv = 0#4 ∧
    (encode (.absorbb n data)).noRounds = true ∧ (encode (.absorbb n data)).len = n := by
  simp only [encode, encodeWord, Command.op, Command.rsv, Command.noRounds, Command.len]
  refine ⟨?_, ?_, ?_, ?_⟩
  · rw [BitVec.extractLsb'_append_eq_of_add_le (by decide)]; rfl
  · rw [BitVec.extractLsb'_append_eq_of_add_le (by decide)]; rfl
  · rw [BitVec.extractLsb'_append_eq_of_add_le (by decide)]; rfl
  · exact BitVec.extractLsb'_append_eq_left

end Sys2Proof
end

