-- ==== Sys2Proof/Laws/State.lean ====
section
/-!
SUPPORT. What each named update of the state leaves in each field, one lemma per field, true by definition; so no proof
unfolds a record update.
-/

namespace Sys2Proof.Machine.State

variable (s : State)

/-! ### respond -/

@[simp] theorem respond_v (e : BitVec 4) (x : Word) : (s.respond e x).v = s.v := rfl
@[simp] theorem respond_phase (e : BitVec 4) (x : Word) : (s.respond e x).phase = s.phase := rfl
@[simp] theorem respond_cfgC (e : BitVec 4) (x : Word) : (s.respond e x).cfgC = s.cfgC := rfl
@[simp] theorem respond_cfgD (e : BitVec 4) (x : Word) : (s.respond e x).cfgD = s.cfgD := rfl
@[simp] theorem respond_buf (e : BitVec 4) (x : Word) : (s.respond e x).buf = s.buf := rfl
@[simp] theorem respond_bufN (e : BitVec 4) (x : Word) : (s.respond e x).bufN = s.bufN := rfl
@[simp] theorem respond_lenLo (e : BitVec 4) (x : Word) : (s.respond e x).lenLo = s.lenLo := rfl
@[simp] theorem respond_result (e : BitVec 4) (x : Word) : (s.respond e x).result = s.result := rfl
@[simp] theorem respond_lastErr (e : BitVec 4) (x : Word) : (s.respond e x).lastErr = s.lastErr := rfl
@[simp] theorem respond_errs (e : BitVec 4) (x : Word) : (s.respond e x).errs = s.errs := rfl
@[simp] theorem respond_channel (e : BitVec 4) (x : Word) : (s.respond e x).channel = .responding := rfl
@[simp] theorem respond_rspErr (e : BitVec 4) (x : Word) : (s.respond e x).rspErr = e := rfl
@[simp] theorem respond_rspData (e : BitVec 4) (x : Word) : (s.respond e x).rspData = x := rfl
@[simp] theorem respond_waiting (e : BitVec 4) (x : Word) : (s.respond e x).waiting = s.waiting := rfl
@[simp] theorem respond_inputs (e : BitVec 4) (x : Word) : (s.respond e x).inputs = s.inputs := rfl
@[simp] theorem respond_draws (e : BitVec 4) (x : Word) : (s.respond e x).draws = s.draws := rfl

/-! ### raise -/

@[simp] theorem raise_v (e : SipError) : (s.raise e).v = s.v := rfl
@[simp] theorem raise_phase (e : SipError) : (s.raise e).phase = s.phase := rfl
@[simp] theorem raise_cfgC (e : SipError) : (s.raise e).cfgC = s.cfgC := rfl
@[simp] theorem raise_cfgD (e : SipError) : (s.raise e).cfgD = s.cfgD := rfl
@[simp] theorem raise_buf (e : SipError) : (s.raise e).buf = s.buf := rfl
@[simp] theorem raise_bufN (e : SipError) : (s.raise e).bufN = s.bufN := rfl
@[simp] theorem raise_lenLo (e : SipError) : (s.raise e).lenLo = s.lenLo := rfl
@[simp] theorem raise_result (e : SipError) : (s.raise e).result = s.result := rfl
@[simp] theorem raise_lastErr (e : SipError) : (s.raise e).lastErr = e.code := rfl
@[simp] theorem raise_errs (e : SipError) : (s.raise e).errs = true := rfl
@[simp] theorem raise_channel (e : SipError) : (s.raise e).channel = .responding := rfl
@[simp] theorem raise_rspErr (e : SipError) : (s.raise e).rspErr = e.code := rfl
@[simp] theorem raise_rspData (e : SipError) : (s.raise e).rspData = 0#64 := rfl
@[simp] theorem raise_waiting (e : SipError) : (s.raise e).waiting = s.waiting := rfl
@[simp] theorem raise_inputs (e : SipError) : (s.raise e).inputs = s.inputs := rfl
@[simp] theorem raise_draws (e : SipError) : (s.raise e).draws = s.draws := rfl

/-! ### succeed -/

@[simp] theorem succeed_v (x : Word) : (s.succeed x).v = s.v := rfl
@[simp] theorem succeed_phase (x : Word) : (s.succeed x).phase = s.phase := rfl
@[simp] theorem succeed_cfgC (x : Word) : (s.succeed x).cfgC = s.cfgC := rfl
@[simp] theorem succeed_cfgD (x : Word) : (s.succeed x).cfgD = s.cfgD := rfl
@[simp] theorem succeed_buf (x : Word) : (s.succeed x).buf = s.buf := rfl
@[simp] theorem succeed_bufN (x : Word) : (s.succeed x).bufN = s.bufN := rfl
@[simp] theorem succeed_lenLo (x : Word) : (s.succeed x).lenLo = s.lenLo := rfl
@[simp] theorem succeed_result (x : Word) : (s.succeed x).result = s.result := rfl
@[simp] theorem succeed_lastErr (x : Word) : (s.succeed x).lastErr = 0#4 := rfl
@[simp] theorem succeed_errs (x : Word) : (s.succeed x).errs = s.errs := rfl
@[simp] theorem succeed_channel (x : Word) : (s.succeed x).channel = .responding := rfl
@[simp] theorem succeed_rspErr (x : Word) : (s.succeed x).rspErr = 0#4 := rfl
@[simp] theorem succeed_rspData (x : Word) : (s.succeed x).rspData = x := rfl
@[simp] theorem succeed_waiting (x : Word) : (s.succeed x).waiting = s.waiting := rfl
@[simp] theorem succeed_inputs (x : Word) : (s.succeed x).inputs = s.inputs := rfl
@[simp] theorem succeed_draws (x : Word) : (s.succeed x).draws = s.draws := rfl

/-! ### startSession -/

@[simp] theorem startSession_v (c d : Byte) (key : Data) : (s.startSession c d key).v = keyedState (keyLow key) (keyHigh key) := rfl
@[simp] theorem startSession_phase (c d : Byte) (key : Data) : (s.startSession c d key).phase = .initialized := rfl
@[simp] theorem startSession_cfgC (c d : Byte) (key : Data) : (s.startSession c d key).cfgC = c := rfl
@[simp] theorem startSession_cfgD (c d : Byte) (key : Data) : (s.startSession c d key).cfgD = d := rfl
@[simp] theorem startSession_buf (c d : Byte) (key : Data) : (s.startSession c d key).buf = 0#56 := rfl
@[simp] theorem startSession_bufN (c d : Byte) (key : Data) : (s.startSession c d key).bufN = 0#3 := rfl
@[simp] theorem startSession_lenLo (c d : Byte) (key : Data) : (s.startSession c d key).lenLo = 0#8 := rfl
@[simp] theorem startSession_result (c d : Byte) (key : Data) : (s.startSession c d key).result = s.result := rfl
@[simp] theorem startSession_lastErr (c d : Byte) (key : Data) : (s.startSession c d key).lastErr = s.lastErr := rfl
@[simp] theorem startSession_errs (c d : Byte) (key : Data) : (s.startSession c d key).errs = s.errs := rfl
@[simp] theorem startSession_channel (c d : Byte) (key : Data) : (s.startSession c d key).channel = s.channel := rfl
@[simp] theorem startSession_rspErr (c d : Byte) (key : Data) : (s.startSession c d key).rspErr = s.rspErr := rfl
@[simp] theorem startSession_rspData (c d : Byte) (key : Data) : (s.startSession c d key).rspData = s.rspData := rfl
@[simp] theorem startSession_waiting (c d : Byte) (key : Data) : (s.startSession c d key).waiting = s.waiting := rfl
@[simp] theorem startSession_inputs (c d : Byte) (key : Data) : (s.startSession c d key).inputs = s.inputs := rfl
@[simp] theorem startSession_draws (c d : Byte) (key : Data) : (s.startSession c d key).draws = s.draws := rfl

/-! ### absorbWord -/

@[simp] theorem absorbWord_v (m : Word) : (s.absorbWord m).v = absorbCore s.v m s.cfgC := rfl
@[simp] theorem absorbWord_phase (m : Word) : (s.absorbWord m).phase = .absorbing := rfl
@[simp] theorem absorbWord_cfgC (m : Word) : (s.absorbWord m).cfgC = s.cfgC := rfl
@[simp] theorem absorbWord_cfgD (m : Word) : (s.absorbWord m).cfgD = s.cfgD := rfl
@[simp] theorem absorbWord_buf (m : Word) : (s.absorbWord m).buf = s.buf := rfl
@[simp] theorem absorbWord_bufN (m : Word) : (s.absorbWord m).bufN = s.bufN := rfl
@[simp] theorem absorbWord_lenLo (m : Word) : (s.absorbWord m).lenLo = s.lenLo + 8#8 := rfl
@[simp] theorem absorbWord_result (m : Word) : (s.absorbWord m).result = s.result := rfl
@[simp] theorem absorbWord_lastErr (m : Word) : (s.absorbWord m).lastErr = s.lastErr := rfl
@[simp] theorem absorbWord_errs (m : Word) : (s.absorbWord m).errs = s.errs := rfl
@[simp] theorem absorbWord_channel (m : Word) : (s.absorbWord m).channel = s.channel := rfl
@[simp] theorem absorbWord_rspErr (m : Word) : (s.absorbWord m).rspErr = s.rspErr := rfl
@[simp] theorem absorbWord_rspData (m : Word) : (s.absorbWord m).rspData = s.rspData := rfl
@[simp] theorem absorbWord_waiting (m : Word) : (s.absorbWord m).waiting = s.waiting := rfl
@[simp] theorem absorbWord_inputs (m : Word) : (s.absorbWord m).inputs = s.inputs := rfl
@[simp] theorem absorbWord_draws (m : Word) : (s.absorbWord m).draws = s.draws := rfl

/-! ### absorbBytes -/

@[simp] theorem absorbBytes_v (bs : List Byte) : (s.absorbBytes bs).v = (packBytes s bs).v := rfl
@[simp] theorem absorbBytes_phase (bs : List Byte) : (s.absorbBytes bs).phase = .absorbing := rfl
@[simp] theorem absorbBytes_cfgC (bs : List Byte) : (s.absorbBytes bs).cfgC = (packBytes s bs).cfgC := rfl
@[simp] theorem absorbBytes_cfgD (bs : List Byte) : (s.absorbBytes bs).cfgD = (packBytes s bs).cfgD := rfl
@[simp] theorem absorbBytes_buf (bs : List Byte) : (s.absorbBytes bs).buf = (packBytes s bs).buf := rfl
@[simp] theorem absorbBytes_bufN (bs : List Byte) : (s.absorbBytes bs).bufN = (packBytes s bs).bufN := rfl
@[simp] theorem absorbBytes_lenLo (bs : List Byte) : (s.absorbBytes bs).lenLo = (packBytes s bs).lenLo := rfl
@[simp] theorem absorbBytes_result (bs : List Byte) : (s.absorbBytes bs).result = (packBytes s bs).result := rfl
@[simp] theorem absorbBytes_lastErr (bs : List Byte) : (s.absorbBytes bs).lastErr = (packBytes s bs).lastErr := rfl
@[simp] theorem absorbBytes_errs (bs : List Byte) : (s.absorbBytes bs).errs = (packBytes s bs).errs := rfl
@[simp] theorem absorbBytes_channel (bs : List Byte) : (s.absorbBytes bs).channel = (packBytes s bs).channel := rfl
@[simp] theorem absorbBytes_rspErr (bs : List Byte) : (s.absorbBytes bs).rspErr = (packBytes s bs).rspErr := rfl
@[simp] theorem absorbBytes_rspData (bs : List Byte) : (s.absorbBytes bs).rspData = (packBytes s bs).rspData := rfl
@[simp] theorem absorbBytes_waiting (bs : List Byte) : (s.absorbBytes bs).waiting = (packBytes s bs).waiting := rfl
@[simp] theorem absorbBytes_inputs (bs : List Byte) : (s.absorbBytes bs).inputs = (packBytes s bs).inputs := rfl
@[simp] theorem absorbBytes_draws (bs : List Byte) : (s.absorbBytes bs).draws = (packBytes s bs).draws := rfl

/-! ### finalizeFrom -/

@[simp] theorem finalizeFrom_v (w : SipState) : (s.finalizeFrom w).v = finalizeState w s.cfgD := rfl
@[simp] theorem finalizeFrom_phase (w : SipState) : (s.finalizeFrom w).phase = .finalized := rfl
@[simp] theorem finalizeFrom_cfgC (w : SipState) : (s.finalizeFrom w).cfgC = s.cfgC := rfl
@[simp] theorem finalizeFrom_cfgD (w : SipState) : (s.finalizeFrom w).cfgD = s.cfgD := rfl
@[simp] theorem finalizeFrom_buf (w : SipState) : (s.finalizeFrom w).buf = s.buf := rfl
@[simp] theorem finalizeFrom_bufN (w : SipState) : (s.finalizeFrom w).bufN = s.bufN := rfl
@[simp] theorem finalizeFrom_lenLo (w : SipState) : (s.finalizeFrom w).lenLo = s.lenLo := rfl
@[simp] theorem finalizeFrom_result (w : SipState) : (s.finalizeFrom w).result = foldOut (finalizeState w s.cfgD) := rfl
@[simp] theorem finalizeFrom_lastErr (w : SipState) : (s.finalizeFrom w).lastErr = s.lastErr := rfl
@[simp] theorem finalizeFrom_errs (w : SipState) : (s.finalizeFrom w).errs = s.errs := rfl
@[simp] theorem finalizeFrom_channel (w : SipState) : (s.finalizeFrom w).channel = s.channel := rfl
@[simp] theorem finalizeFrom_rspErr (w : SipState) : (s.finalizeFrom w).rspErr = s.rspErr := rfl
@[simp] theorem finalizeFrom_rspData (w : SipState) : (s.finalizeFrom w).rspData = s.rspData := rfl
@[simp] theorem finalizeFrom_waiting (w : SipState) : (s.finalizeFrom w).waiting = s.waiting := rfl
@[simp] theorem finalizeFrom_inputs (w : SipState) : (s.finalizeFrom w).inputs = s.inputs := rfl
@[simp] theorem finalizeFrom_draws (w : SipState) : (s.finalizeFrom w).draws = s.draws := rfl

/-! ### padAndFinalize -/

@[simp] theorem padAndFinalize_v : s.padAndFinalize.v = finalizeState (absorbCore s.v (padWord s) s.cfgC) s.cfgD := rfl
@[simp] theorem padAndFinalize_phase : s.padAndFinalize.phase = .finalized := rfl
@[simp] theorem padAndFinalize_cfgC : s.padAndFinalize.cfgC = s.cfgC := rfl
@[simp] theorem padAndFinalize_cfgD : s.padAndFinalize.cfgD = s.cfgD := rfl
@[simp] theorem padAndFinalize_buf : s.padAndFinalize.buf = 0#56 := rfl
@[simp] theorem padAndFinalize_bufN : s.padAndFinalize.bufN = 0#3 := rfl
@[simp] theorem padAndFinalize_lenLo : s.padAndFinalize.lenLo = s.lenLo := rfl
@[simp] theorem padAndFinalize_result : s.padAndFinalize.result = foldOut (finalizeState (absorbCore s.v (padWord s) s.cfgC) s.cfgD) := rfl
@[simp] theorem padAndFinalize_lastErr : s.padAndFinalize.lastErr = s.lastErr := rfl
@[simp] theorem padAndFinalize_errs : s.padAndFinalize.errs = s.errs := rfl
@[simp] theorem padAndFinalize_channel : s.padAndFinalize.channel = s.channel := rfl
@[simp] theorem padAndFinalize_rspErr : s.padAndFinalize.rspErr = s.rspErr := rfl
@[simp] theorem padAndFinalize_rspData : s.padAndFinalize.rspData = s.rspData := rfl
@[simp] theorem padAndFinalize_waiting : s.padAndFinalize.waiting = s.waiting := rfl
@[simp] theorem padAndFinalize_inputs : s.padAndFinalize.inputs = s.inputs := rfl
@[simp] theorem padAndFinalize_draws : s.padAndFinalize.draws = s.draws := rfl

/-! ### advance -/

@[simp] theorem advance_v : s.advance.v = s.v := rfl
@[simp] theorem advance_phase : s.advance.phase = s.phase := rfl
@[simp] theorem advance_cfgC : s.advance.cfgC = s.cfgC := rfl
@[simp] theorem advance_cfgD : s.advance.cfgD = s.cfgD := rfl
@[simp] theorem advance_buf : s.advance.buf = s.buf := rfl
@[simp] theorem advance_bufN : s.advance.bufN = s.bufN := rfl
@[simp] theorem advance_lenLo : s.advance.lenLo = s.lenLo := rfl
@[simp] theorem advance_result : s.advance.result = s.result := rfl
@[simp] theorem advance_lastErr : s.advance.lastErr = s.lastErr := rfl
@[simp] theorem advance_errs : s.advance.errs = s.errs := rfl
@[simp] theorem advance_channel : s.advance.channel = s.channel := rfl
@[simp] theorem advance_rspErr : s.advance.rspErr = s.rspErr := rfl
@[simp] theorem advance_rspData : s.advance.rspData = s.rspData := rfl
@[simp] theorem advance_waiting : s.advance.waiting = s.waiting := rfl
@[simp] theorem advance_inputs : s.advance.inputs = s.inputs.tail := rfl
@[simp] theorem advance_draws : s.advance.draws = s.draws := rfl

/-! ### noteOffer -/

@[simp] theorem noteOffer_v (p : PortsIn) : (s.noteOffer p).v = s.v := rfl
@[simp] theorem noteOffer_phase (p : PortsIn) : (s.noteOffer p).phase = s.phase := rfl
@[simp] theorem noteOffer_cfgC (p : PortsIn) : (s.noteOffer p).cfgC = s.cfgC := rfl
@[simp] theorem noteOffer_cfgD (p : PortsIn) : (s.noteOffer p).cfgD = s.cfgD := rfl
@[simp] theorem noteOffer_buf (p : PortsIn) : (s.noteOffer p).buf = s.buf := rfl
@[simp] theorem noteOffer_bufN (p : PortsIn) : (s.noteOffer p).bufN = s.bufN := rfl
@[simp] theorem noteOffer_lenLo (p : PortsIn) : (s.noteOffer p).lenLo = s.lenLo := rfl
@[simp] theorem noteOffer_result (p : PortsIn) : (s.noteOffer p).result = s.result := rfl
@[simp] theorem noteOffer_lastErr (p : PortsIn) : (s.noteOffer p).lastErr = s.lastErr := rfl
@[simp] theorem noteOffer_errs (p : PortsIn) : (s.noteOffer p).errs = s.errs := rfl
@[simp] theorem noteOffer_channel (p : PortsIn) : (s.noteOffer p).channel = s.channel := rfl
@[simp] theorem noteOffer_rspErr (p : PortsIn) : (s.noteOffer p).rspErr = s.rspErr := rfl
@[simp] theorem noteOffer_rspData (p : PortsIn) : (s.noteOffer p).rspData = s.rspData := rfl
@[simp] theorem noteOffer_waiting (p : PortsIn) : (s.noteOffer p).waiting = s.waiting ++ (if p.cmdValid then [p.cmd] else []) := rfl
@[simp] theorem noteOffer_inputs (p : PortsIn) : (s.noteOffer p).inputs = s.inputs := rfl
@[simp] theorem noteOffer_draws (p : PortsIn) : (s.noteOffer p).draws = s.draws := rfl

end Sys2Proof.Machine.State
end

