-- ==== Sys2Proof/Laws/Packer.lean ====
section
/-!
SUPPORT. Little-endian packing bit by bit, the lanes of the data operand, and what the byte packer leaves alone.
-/

namespace Sys2Proof.Machine

/-! ### `le` -/

@[simp] theorem le_nil (w : Nat) : le w [] = 0#w := rfl

theorem le_cons (w : Nat) (b : Byte) (bs : List Byte) : le w (b :: bs) = b.setWidth w ||| (le w bs <<< 8) := rfl

/-- Bit i of a packing is bit i mod 8 of byte i / 8, and 0 past the bytes. -/
theorem getLsbD_le (w : Nat) (bs : List Byte) (i : Nat) :
    (le w bs).getLsbD i = (decide (i < w) && (bs.getD (i / 8) 0#8).getLsbD (i % 8)) := by
  induction bs generalizing i with
  | nil => simp
  | cons b bs ih =>
    rw [le_cons, BitVec.getLsbD_or, BitVec.getLsbD_setWidth, BitVec.getLsbD_shiftLeft, ih]
    by_cases hw : i < w
    · by_cases h8 : i < 8
      · have : i / 8 = 0 := by omega
        have h' : i % 8 = i := by omega
        simp [hw, h8, this, h']
      · obtain ⟨k, rfl⟩ : ∃ k, i = k + 8 := ⟨i - 8, by omega⟩
        have h1 : (k + 8) / 8 = k / 8 + 1 := by omega
        have h2 : (k + 8) % 8 = k % 8 := by omega
        have h3 : k < w := by omega
        simp [hw, h1, h2, h3, BitVec.getLsbD_of_ge]
    · simp [hw]

/-- Appending bytes packs them above the ones there are. -/
theorem le_append (w : Nat) (xs ys : List Byte) : le w (xs ++ ys) = le w xs ||| (le w ys <<< (8 * xs.length)) := by
  apply BitVec.eq_of_getLsbD_eq
  intro i hi
  rw [BitVec.getLsbD_or, BitVec.getLsbD_shiftLeft, getLsbD_le, getLsbD_le, getLsbD_le]
  by_cases h : i < 8 * xs.length
  · have : i / 8 < xs.length := by omega
    simp [hi, h, List.getElem?_append_left this]
  · have h1 : xs.length ≤ i / 8 := by omega
    have h2 : (i - 8 * xs.length) / 8 = i / 8 - xs.length := by omega
    have h3 : (i - 8 * xs.length) % 8 = i % 8 := by omega
    have h4 : i - 8 * xs.length < w := by omega
    simp [hi, h, h2, h3, h4, List.getElem?_append_right h1, List.getElem?_eq_none h1]

theorem le_singleton (w : Nat) (b : Byte) : le w [b] = b.setWidth w := by simp [le_cons]

theorem le_snoc (w : Nat) (xs : List Byte) (b : Byte) :
    le w (xs ++ [b]) = le w xs ||| (b.setWidth w <<< (8 * xs.length)) := by
  rw [le_append, le_singleton]

/-- Narrowing a packing packs into the narrower width. -/
theorem setWidth_le_of_le {w w' : Nat} (h : w' ≤ w) (bs : List Byte) : (le w bs).setWidth w' = le w' bs := by
  apply BitVec.eq_of_getLsbD_eq
  intro i hi
  have : i < w := by omega
  simp only [BitVec.getLsbD_setWidth, getLsbD_le, hi, this, decide_true, Bool.true_and]

/-- Bytes that fit the narrower width pack the same into the wider one. -/
theorem setWidth_le_of_length {w w' : Nat} (bs : List Byte) (h : 8 * bs.length ≤ w) :
    (le w bs).setWidth w' = le w' bs := by
  apply BitVec.eq_of_getLsbD_eq
  intro i hi
  simp only [BitVec.getLsbD_setWidth, getLsbD_le, hi, decide_true, Bool.true_and]
  by_cases hb : i / 8 < bs.length
  · have : i < w := by omega
    simp [this]
  · simp [List.getElem?_eq_none (Nat.le_of_not_lt hb)]

/-- A packing has nothing past its bytes. -/
theorem le_shiftRight_length (w : Nat) (bs : List Byte) : le w bs >>> (8 * bs.length) = 0#w := by
  apply BitVec.eq_of_getLsbD_eq
  intro i _
  have : bs.length ≤ (8 * bs.length + i) / 8 := by omega
  simp [BitVec.getLsbD_ushiftRight, getLsbD_le, List.getElem?_eq_none this]

/-! ### Lanes -/

theorem length_lanes (data : Data) (n : Nat) : (lanes data n).length = n := by simp [lanes]

theorem getLsbD_lane (data : Data) (i j : Nat) : (lane data i).getLsbD j = (decide (j < 8) && data.getLsbD (8 * i + j)) := by
  simp [lane, BitVec.getLsbD_extractLsb']

/-- The first eight lanes are the message word. -/
theorem le_lanes_eight (data : Data) : le 64 (lanes data 8) = messageWord data := by
  apply BitVec.eq_of_getLsbD_eq
  intro i hi
  have h1 : i / 8 < 8 := by omega
  have h2 : i % 8 < 8 := by omega
  have h3 : 8 * (i / 8) + i % 8 = i := by omega
  simp [-BitVec.getLsbD_eq_getElem, getLsbD_le, lanes, messageWord, getLsbD_lane, hi, h1, h2, h3]

/-- The lanes of an assembled operand are the bytes it was assembled from. -/
theorem lanes_le (bs : List Byte) (h : bs.length ≤ 16) : lanes (le 128 bs) bs.length = bs := by
  apply List.ext_getElem
  · simp [lanes]
  · intro i h1 h2
    apply BitVec.eq_of_getLsbD_eq
    intro j hj
    have hd : (8 * i + j) / 8 = i := by omega
    have hm : (8 * i + j) % 8 = j := by omega
    have hlt : 8 * i + j < 128 := by omega
    simp [-BitVec.getLsbD_eq_getElem, lanes, getLsbD_lane, getLsbD_le, hj, hd, hm, hlt, h2]

/-- The lanes of a word put in the low half of an operand are its bytes. -/
theorem lanes_setWidth (m : Word) : lanes (m.setWidth 128) 8 = serialise m := by
  apply List.map_congr_left
  intro i hi
  have hi : i < 8 := by simpa using hi
  apply BitVec.eq_of_getLsbD_eq
  intro j hj
  have hlt : 8 * i + j < 128 := by omega
  simp [-BitVec.getLsbD_eq_getElem, getLsbD_lane, byteOf, hj, hlt]

theorem length_serialise (m : Word) : (serialise m).length = 8 := by simp [serialise]

/-- Packing the bytes of a word gives the word. -/
theorem le_serialise (m : Word) : le 64 (serialise m) = m := by
  rw [← lanes_setWidth, le_lanes_eight]
  apply BitVec.eq_of_getLsbD_eq
  intro i hi
  have : i < 128 := by omega
  simp [messageWord, hi, this]

/-! ### The byte packer -/

/-- The block being packed is the packing of the buffered bytes and the new one. -/
theorem packWord_eq_le (p : List Byte) (b : Byte) (s : State) (hn : p.length = s.bufN.toNat) (hb : s.buf = le 56 p) :
    packWord b s = le 64 (p ++ [b]) := by
  have : s.bufN.toNat < 8 := s.bufN.isLt
  rw [packWord, hb, ← hn, setWidth_le_of_length p (by omega), le_snoc]

/-- The byte packer writes v0-v3, BUF, BUF_N and LEN_LO only (R132). -/
theorem packByte_frame (s : State) (b : Byte) :
    packByte s b =
      { s with v := (packByte s b).v, buf := (packByte s b).buf, bufN := (packByte s b).bufN
               lenLo := s.lenLo + 1#8 } := by
  unfold packByte; split <;> rfl

/-- The same of any number of bytes, each counted in LEN_LO. -/
theorem packBytes_frame (s : State) (bs : List Byte) :
    packBytes s bs =
      { s with v := (packBytes s bs).v, buf := (packBytes s bs).buf, bufN := (packBytes s bs).bufN
               lenLo := s.lenLo + BitVec.ofNat 8 bs.length } := by
  induction bs generalizing s with
  | nil => simp [packBytes]
  | cons b bs ih =>
    have h : packBytes s (b :: bs) = packBytes (packByte s b) bs := rfl
    rw [h, ih (packByte s b), packByte_frame s b]
    simp only [List.length_cons]
    congr 1
    rw [BitVec.add_assoc]
    congr 1
    apply BitVec.eq_of_toNat_eq
    simp [Nat.add_comm]

@[simp] theorem packBytes_nil (s : State) : packBytes s [] = s := rfl

theorem packBytes_cons (s : State) (b : Byte) (bs : List Byte) : packBytes s (b :: bs) = packBytes (packByte s b) bs := rfl

theorem packBytes_append (s : State) (xs ys : List Byte) : packBytes s (xs ++ ys) = packBytes (packBytes s xs) ys :=
  List.foldl_append

@[simp] theorem packBytes_phase (s : State) (bs : List Byte) : (packBytes s bs).phase = s.phase := by rw [packBytes_frame]
@[simp] theorem packBytes_cfgC (s : State) (bs : List Byte) : (packBytes s bs).cfgC = s.cfgC := by rw [packBytes_frame]
@[simp] theorem packBytes_cfgD (s : State) (bs : List Byte) : (packBytes s bs).cfgD = s.cfgD := by rw [packBytes_frame]
@[simp] theorem packBytes_result (s : State) (bs : List Byte) : (packBytes s bs).result = s.result := by rw [packBytes_frame]
@[simp] theorem packBytes_lastErr (s : State) (bs : List Byte) : (packBytes s bs).lastErr = s.lastErr := by rw [packBytes_frame]
@[simp] theorem packBytes_errs (s : State) (bs : List Byte) : (packBytes s bs).errs = s.errs := by rw [packBytes_frame]
@[simp] theorem packBytes_channel (s : State) (bs : List Byte) : (packBytes s bs).channel = s.channel := by rw [packBytes_frame]
@[simp] theorem packBytes_rspErr (s : State) (bs : List Byte) : (packBytes s bs).rspErr = s.rspErr := by rw [packBytes_frame]
@[simp] theorem packBytes_rspData (s : State) (bs : List Byte) : (packBytes s bs).rspData = s.rspData := by rw [packBytes_frame]
@[simp] theorem packBytes_waiting (s : State) (bs : List Byte) : (packBytes s bs).waiting = s.waiting := by rw [packBytes_frame]
@[simp] theorem packBytes_inputs (s : State) (bs : List Byte) : (packBytes s bs).inputs = s.inputs := by rw [packBytes_frame]
@[simp] theorem packBytes_draws (s : State) (bs : List Byte) : (packBytes s bs).draws = s.draws := by rw [packBytes_frame]
theorem packBytes_lenLo (s : State) (bs : List Byte) : (packBytes s bs).lenLo = s.lenLo + BitVec.ofNat 8 bs.length := by
  rw [packBytes_frame]

end Sys2Proof.Machine
end

