-- ==== Sys2Proof/Laws/Ops.lean ====
section
/-!
SUPPORT. What each meaning can do, said once: its cases, with the conditions under which it takes each. Later proofs cite these
and unfold no meaning.
-/

namespace Sys2Proof.Machine

theorem sessionOpen_iff (s : State) : s.sessionOpen = true ↔ s.inSession := by
  simp [State.sessionOpen]

/-- INIT fails on the key length, then on the round counts, or starts a session (R121). -/
theorem execInit_cases {c d klen : Byte} {key : Data} {s t : State} (h : execInit c d klen key s = .next t) :
    (klen ≠ 16#8 ∧ t = s.raise .invalidKeyLength) ∨
    (klen = 16#8 ∧ (c = 0#8 ∨ d = 0#8) ∧ t = s.raise .invalidRoundCount) ∨
    (klen = 16#8 ∧ c ≠ 0#8 ∧ d ≠ 0#8 ∧ t = (s.startSession c d key).succeed 0#64) := by
  unfold execInit at h
  split at h
  next hk => cases h; exact .inl ⟨hk, rfl⟩
  next hk =>
    have hk : klen = 16#8 := not_not.mp hk
    split at h
    next hz => cases h; exact .inr (.inl ⟨hk, hz, rfl⟩)
    next hz =>
      cases h
      obtain ⟨hc, hd⟩ := not_or.mp hz
      exact .inr (.inr ⟨hk, hc, hd, rfl⟩)

/-- ABSORBW fails without a session or on buffered bytes, or absorbs its word (R130). -/
theorem execAbsorbw_cases {data : Data} {s t : State} (h : execAbsorbw data s = .next t) :
    ((¬ s.inSession ∨ s.bufN ≠ 0#3) ∧ t = s.raise .invalidState) ∨
    (s.inSession ∧ s.bufN = 0#3 ∧ t = (s.absorbWord (messageWord data)).succeed 0#64) := by
  simp only [execAbsorbw, Bool.not_eq_true', ← Bool.not_eq_true, sessionOpen_iff] at h
  split at h
  · cases h; exact .inl ⟨.inl ‹_›, rfl⟩
  · split at h
    · cases h; exact .inl ⟨.inr ‹_›, rfl⟩
    · cases h; exact .inr ⟨by tauto, by simp_all, rfl⟩

/-- ABSORBB fails on its count or without a session, or packs its bytes (R133). -/
theorem execAbsorbb_cases {n : Byte} {data : Data} {s t : State} (h : execAbsorbb n data s = .next t) :
    (8#8 < n ∧ t = s.raise .illegalCommand) ∨
    (n ≤ 8#8 ∧ ¬ s.inSession ∧ t = s.raise .invalidState) ∨
    (n ≤ 8#8 ∧ s.inSession ∧ t = (s.absorbBytes (lanes data n.toNat)).succeed 0#64) := by
  simp only [execAbsorbb, Config.maxBytes, Bool.not_eq_true', ← Bool.not_eq_true, sessionOpen_iff] at h
  split at h
  · cases h; exact .inl ⟨‹_›, rfl⟩
  · have hn : n ≤ 8#8 := BitVec.not_lt.mp ‹_›
    split at h
    · cases h; exact .inr (.inl ⟨hn, ‹_›, rfl⟩)
    · cases h; exact .inr (.inr ⟨hn, by tauto, rfl⟩)

/-- FINAL fails without a session, or pads and finalizes (R151). -/
theorem execFinal_cases {data : Data} {s t : State} (h : execFinal data s = .next t) :
    (¬ s.inSession ∧ t = s.raise .invalidState) ∨
    (s.inSession ∧ t = s.padAndFinalize.succeed s.padAndFinalize.result) := by
  simp only [execFinal, Bool.not_eq_true', ← Bool.not_eq_true, sessionOpen_iff] at h
  split at h
  · cases h; exact .inl ⟨‹_›, rfl⟩
  · cases h; exact .inr ⟨by tauto, rfl⟩

/-- FINALRAW fails without a session or on buffered bytes, or finalizes (R153). -/
theorem execFinalraw_cases {data : Data} {s t : State} (h : execFinalraw data s = .next t) :
    ((¬ s.inSession ∨ s.bufN ≠ 0#3) ∧ t = s.raise .invalidState) ∨
    (s.inSession ∧ s.bufN = 0#3 ∧ t = (s.finalizeFrom s.v).succeed (s.finalizeFrom s.v).result) := by
  simp only [execFinalraw, Bool.not_eq_true', ← Bool.not_eq_true, sessionOpen_iff] at h
  split at h
  · cases h; exact .inl ⟨.inl ‹_›, rfl⟩
  · split at h
    · cases h; exact .inl ⟨.inr ‹_›, rfl⟩
    · cases h; exact .inr ⟨by tauto, by simp_all, rfl⟩

/-- Everything a command can do to a state: raise an error, or the effect of the one instruction it decodes to (R80). -/
theorem execute_cases {c : Command} {s t : State} (h : execute c s = .next t) :
    (∃ e, t = s.raise e) ∨
    (∃ cr dr key, decode c = .legal (.init cr dr 16#8 key) ∧ cr ≠ 0#8 ∧ dr ≠ 0#8 ∧
      t = (s.startSession cr dr key).succeed 0#64) ∨
    (∃ data, decode c = .legal (.absorbw data) ∧ s.inSession ∧ s.bufN = 0#3 ∧
      t = (s.absorbWord (messageWord data)).succeed 0#64) ∨
    (∃ n data, decode c = .legal (.absorbb n data) ∧ n ≤ 8#8 ∧ s.inSession ∧
      t = (s.absorbBytes (lanes data n.toNat)).succeed 0#64) ∨
    (∃ data, decode c = .legal (.final data) ∧ s.inSession ∧ t = s.padAndFinalize.succeed s.padAndFinalize.result) ∨
    (∃ data, decode c = .legal (.finalraw data) ∧ s.inSession ∧ s.bufN = 0#3 ∧
      t = (s.finalizeFrom s.v).succeed (s.finalizeFrom s.v).result) := by
  unfold execute at h
  split at h
  next i hi =>
    cases i with
    | init cr dr klen key =>
      obtain ⟨-, h⟩ | ⟨-, -, h⟩ | ⟨rfl, hc, hd, h⟩ := execInit_cases h
      · exact .inl ⟨_, h⟩
      · exact .inl ⟨_, h⟩
      · exact .inr (.inl ⟨cr, dr, key, hi, hc, hd, h⟩)
    | absorbw data =>
      obtain ⟨-, h⟩ | ⟨hs, hb, h⟩ := execAbsorbw_cases h
      · exact .inl ⟨_, h⟩
      · exact .inr (.inr (.inl ⟨data, hi, hs, hb, h⟩))
    | absorbb n data =>
      obtain ⟨-, h⟩ | ⟨-, -, h⟩ | ⟨hn, hs, h⟩ := execAbsorbb_cases h
      · exact .inl ⟨_, h⟩
      · exact .inl ⟨_, h⟩
      · exact .inr (.inr (.inr (.inl ⟨n, data, hi, hn, hs, h⟩)))
    | final data =>
      obtain ⟨-, h⟩ | ⟨hs, h⟩ := execFinal_cases (data := data) h
      · exact .inl ⟨_, h⟩
      · exact .inr (.inr (.inr (.inr (.inl ⟨data, hi, hs, h⟩))))
    | finalraw data =>
      obtain ⟨-, h⟩ | ⟨hs, hb, h⟩ := execFinalraw_cases (data := data) h
      · exact .inl ⟨_, h⟩
      · exact .inr (.inr (.inr (.inr (.inr ⟨data, hi, hs, hb, h⟩))))
  next => cases h; exact .inl ⟨_, rfl⟩

end Sys2Proof.Machine
end

