-- ==== Sys2Proof/Laws/PerInstr.lean ====
section
/-!
SUPPORT. Statements about every instruction as syntax, one lemma per constructor. Family `TableRow`: the word the encoder writes
meets the match and mask of its row of spec/opcode_table.json (30_encoding.md R74).
-/

namespace Sys2Proof.Laws.TableRow

/-- The mask of an instruction's row (R74). -/
def tableMask : Instr → CmdWord
  | .init _ _ _ _ => 0x000000FF#32
  | .absorbw _ => 0xFFFFFFFF#32
  | .absorbb _ _ => 0x00FFFFFF#32
  | .final _ => 0xFFFFFFFF#32
  | .finalraw _ => 0xFFFFFFFF#32

/-- The match of an instruction's row (R74). -/
def tableMatch : Instr → CmdWord
  | .init _ _ _ _ => 0x00000001#32
  | .absorbw _ => 0x00000002#32
  | .absorbb _ _ => 0x00000003#32
  | .final _ => 0x00000004#32
  | .finalraw _ => 0x00000005#32

/-- The encoded word meets the row's match under its mask. -/
def Statement (i : Instr) : Prop := encodeWord i &&& tableMask i = tableMatch i

theorem init (c d klen : Byte) (key : Data) : Statement (.init c d klen key) := by
  apply BitVec.eq_of_getLsbD_eq
  intro k hk
  simp only [encodeWord, tableMask, tableMatch, BitVec.getLsbD_and, BitVec.getLsbD_append]
  interval_cases k <;> simp

theorem absorbw (data : Data) : Statement (.absorbw data) := by simp [Statement, encodeWord, tableMask, tableMatch]

theorem absorbb (n : Byte) (data : Data) : Statement (.absorbb n data) := by
  apply BitVec.eq_of_getLsbD_eq
  intro k hk
  simp only [encodeWord, tableMask, tableMatch, BitVec.getLsbD_and, BitVec.getLsbD_append]
  interval_cases k <;> simp

theorem final (data : Data) : Statement (.final data) := by simp [Statement, encodeWord, tableMask, tableMatch]

theorem finalraw (data : Data) : Statement (.finalraw data) := by simp [Statement, encodeWord, tableMask, tableMatch]

end Sys2Proof.Laws.TableRow
end

