-- ==== Sys2Proof/Laws/SipRound.lean ====
section
/-!
SUPPORT. The mixing unit: a rotation is undone by the complementary rotation, and the equations of the round sequencer.
-/

namespace Sys2Proof.Machine

/-- The barrel shifter is the library's rotation. -/
theorem rotl_eq_rotateLeft (x : Word) (n : BitVec 6) : rotl x n = x.rotateLeft n.toNat := by
  have hn : n.toNat < 64 := n.isLt
  unfold rotl
  split
  next h =>
    subst h
    apply BitVec.eq_of_getLsbD_eq
    intro i hi
    simp [hi]
  next => rw [BitVec.rotateLeft_def, Nat.mod_eq_of_lt hn]

/-- Rotating on by the rest of the 64 bits gives the word back. -/
theorem rotl_rotl_neg (x : Word) (n : BitVec 6) : rotl (rotl x n) (-n) = x := by
  have hn : n.toNat < 64 := n.isLt
  by_cases h : n = 0#6
  · subst h; rfl
  · rw [rotl_eq_rotateLeft, rotl_eq_rotateLeft]
    have h0 : n.toNat ≠ 0 := fun hc => h (BitVec.eq_of_toNat_eq (by simpa using hc))
    have hneg : (-n).toNat = 64 - n.toNat := by
      rw [BitVec.toNat_neg]; omega
    rw [hneg]
    apply BitVec.eq_of_getLsbD_eq
    intro i hi
    simp only [BitVec.getLsbD_rotateLeft, Nat.mod_eq_of_lt hn, Nat.mod_eq_of_lt (show 64 - n.toNat < 64 by omega)]
    by_cases h1 : i < 64 - n.toNat
    · have h2 : ¬ 64 - (64 - n.toNat) + i < n.toNat := by omega
      have h3 : 64 - (64 - n.toNat) + i - n.toNat = i := by omega
      have h4 : 64 - (64 - n.toNat) + i < 64 := by omega
      simp [-BitVec.getLsbD_eq_getElem, h1, h2, h3, h4]
    · have h2 : i - (64 - n.toNat) < n.toNat := by omega
      have h3 : 64 - n.toNat + (i - (64 - n.toNat)) = i := by omega
      simp [-BitVec.getLsbD_eq_getElem, h1, h2, h3, hi]

@[simp] theorem rounds_zero (v : SipState) : rounds v 0 = v := rfl

theorem rounds_succ (v : SipState) (k : Nat) : rounds v (k + 1) = rounds (sipRound v) k := rfl

end Sys2Proof.Machine
end

