-- ==== Sys2Proof/Laws/Step.lean ====
section
/-!
SUPPORT. What a step can do, said once, and what the edges of the interface leave of the architectural registers.
-/

namespace Sys2Proof.Machine

/-- Everything a step can do (R200, R205, R207): reset, an edge of an idle core, a command's effect, an edge with a response
waiting. -/
theorem step_cases {s t : State} (h : step s = .next t) :
    (s.ports.rstN = false ∧ t = s.advance.resetAction) ∨
    (s.ports.rstN = true ∧ s.channel = .idle ∧ t = s.advance.idleEdge s.ports) ∨
    (s.ports.rstN = true ∧ ∃ c, s.channel = .executing c ∧ execute c (s.advance.noteOffer s.ports) = .next t) ∨
    (s.ports.rstN = true ∧ s.channel = .responding ∧ t = s.advance.responseEdge s.ports) := by
  unfold step at h
  split at h
  next hr => cases h; exact .inl ⟨hr, rfl⟩
  next hr =>
    have hr : s.ports.rstN = true := by simpa using hr
    split at h
    next hc => cases h; exact .inr (.inl ⟨hr, hc, rfl⟩)
    next c hc => exact .inr (.inr (.inl ⟨hr, c, hc, h⟩))
    next hc => cases h; exact .inr (.inr (.inr ⟨hr, hc, rfl⟩))

@[simp] theorem arch_advance (s : State) : s.advance.arch = s.arch := rfl

@[simp] theorem arch_noteOffer (p : PortsIn) (s : State) : (s.noteOffer p).arch = s.arch := rfl

@[simp] theorem arch_respond (e : BitVec 4) (x : Word) (s : State) : (s.respond e x).arch = s.arch := rfl

/-- Accepting a command, or not, changes no register, no response and no coming input. -/
theorem idleEdge_frame (p : PortsIn) (s : State) :
    (s.idleEdge p).arch = s.arch ∧ (s.idleEdge p).rspErr = s.rspErr ∧ (s.idleEdge p).rspData = s.rspData ∧
    (s.idleEdge p).inputs = s.inputs := by
  unfold State.idleEdge; split <;> simp [State.arch]

/-- An idle core stays idle or puts a command into execution. -/
theorem idleEdge_channel (p : PortsIn) (s : State) (h : s.channel = .idle) :
    (s.idleEdge p).channel = .idle ∨ ∃ c, (s.idleEdge p).channel = .executing c := by
  unfold State.idleEdge
  split
  · exact .inl h
  · cases s.accepted p with
    | none => exact .inl rfl
    | some c => exact .inr ⟨c, rfl⟩

/-- Holding or transferring a response changes no register and no coming input. -/
theorem responseEdge_frame (p : PortsIn) (s : State) :
    (s.responseEdge p).arch = s.arch ∧ (s.responseEdge p).inputs = s.inputs := by
  unfold State.responseEdge; split <;> simp [State.arch]

end Sys2Proof.Machine
end

