-- ==== Sys2Proof/Tests/Slice0.lean ====
section
/-!
SUPPORT. The model's own tests. Expected values come from 95_test_vectors.md (the vector is named in each docstring) or are
written out from the rule named there. After them, a witness for the hypotheses of each statement.
-/

namespace Sys2Proof.Machine.Test

/-! ### Small states -/

/-- The data operand of the reference key 00 01 .. 0f. -/
def refKey : Data := 0x0f0e0d0c0b0a09080706050403020100#128

/-- The register file INIT leaves under the reference key (L1-2). -/
def keyed : SipState where
  v0 := 0x7469686173716475#64
  v1 := 0x6b617f6d656e6665#64
  v2 := 0x6b7f62616d677361#64
  v3 := 0x7b6b696e727e6c7b#64

/-- A SipHash-2-4 session under the reference key, in the given phase and with the given bytes buffered. -/
def session (p : Phase) (bytes : List Byte) : State :=
  { State.reset with
    v := keyed, phase := p, cfgC := 2#8, cfgD := 4#8, buf := le 56 bytes, bufN := BitVec.ofNat 3 bytes.length
    lenLo := BitVec.ofNat 8 bytes.length }

/-- The session right after INIT24. -/
def opened : State := session .initialized []

/-- Three bytes 00 01 02 buffered (V-AB-2). -/
def three : State := session .absorbing [0#8, 1#8, 2#8]

/-- Seven bytes 00 .. 06 buffered. -/
def seven : State := session .absorbing [0#8, 1#8, 2#8, 3#8, 4#8, 5#8, 6#8]

/-- A finalized session. -/
def done : State := session .finalized []

/-- A state with a command in execution. -/
def running (c : Command) (s : State) : State := { s with channel := .executing c }

/-- The same state with the given ports driven at the next edge. -/
def driven (p : PortsIn) (s : State) : State := { s with inputs := [p] }

/-- What holds of the state an outcome gives, if it gives one. -/
def holds (o : Host.Outcome State Fault Refusal) (p : State → Bool) : Bool :=
  match o with
  | .next t => p t
  | .fault _ => false
  | .refused _ => false

/-- Input ports at which the host resets the core. -/
def resetPorts : PortsIn := { PortsIn.quiet with rstN := false }

/-! ### Decoding, from the bit fields of R70 and the table of R74 -/

/-- LEN = 16, D = 4, C = 2, RSV = 0, OP = 1. -/
theorem test_decode_init :
    decode { word := 0b00010000000001000000001000000001#32, data := refKey } = .legal (.init 2#8 4#8 16#8 refKey) := by decide

/-- OP = 2, all other bits 0. -/
theorem test_decode_absorbw : decode { word := 0b10#32, data := refKey } = .legal (.absorbw refKey) := by decide

/-- LEN = 8, OP = 3. -/
theorem test_decode_absorbb :
    decode { word := 0b00001000000000000000000000000011#32, data := refKey } = .legal (.absorbb 8#8 refKey) := by decide

/-- OP = 4, all other bits 0. -/
theorem test_decode_final : decode { word := 0b100#32, data := refKey } = .legal (.final refKey) := by decide

/-- OP = 5, all other bits 0. -/
theorem test_decode_finalraw : decode { word := 0b101#32, data := refKey } = .legal (.finalraw refKey) := by decide

/-- V-ER-1, V-ER-2, V-ER-3: reserved opcodes. -/
theorem test_decode_reserved :
    decode { word := 0x00000000#32, data := 0#128 } = .illegal .reservedOpcode ∧
    decode { word := 0x00000006#32, data := 0#128 } = .illegal .reservedOpcode ∧
    decode { word := 0x0000000f#32, data := 0#128 } = .illegal .reservedOpcode := by decide

/-- V-ER-4, V-AW-9, V-FR-7, V-AB-10: RSV, C, D nonzero, and a count of 9. -/
theorem test_decode_fixed_fields :
    decode { word := 0x10040211#32, data := 0#128 } = .illegal .reservedField ∧
    decode { word := 0x00000202#32, data := 0#128 } = .illegal .mustBeZeroField ∧
    decode { word := 0x00010005#32, data := 0#128 } = .illegal .mustBeZeroField ∧
    decode { word := 0x09000003#32, data := 0#128 } = .illegal .byteCount := by decide

/-- The table's numbering: the command word in the low 32 bits, no data operand. -/
theorem test_decodeTableWord : decodeTableWord 32 0x08000003 = some (.absorbb 8#8 0#128) := by decide

/-- The one ill-formed shape is refused: no command word carries a count of 9 (R76). -/
theorem test_wellFormed_smoke :
    (Instr.absorbb 9#8 0#128).wellFormed = false ∧ (Instr.absorbb 8#8 0#128).wellFormed = true ∧
    decode (encode (.absorbb 9#8 0#128)) = .illegal .byteCount := by decide

/-! ### The datapath -/

/-- V-AD-5 and V-AD-2. -/
theorem test_add64 :
    add64 0x736f6d6570736575#64 0x646f72616e646f6d#64 = 0xd7dedfc6ded7d4e2#64 ∧
    add64 0xffffffffffffffff#64 1#64 = 0#64 := by decide

/-- V-RT-2, V-RT-5, V-RT-8. -/
theorem test_rotl :
    rotl 0x0123456789abcdef#64 13#6 = 0x68acf13579bde024#64 ∧
    rotl 0x0123456789abcdef#64 21#6 = 0xacf13579bde02468#64 ∧ rotl 1#64 63#6 = 0x8000000000000000#64 := by decide

/-- V-SR-8: four rounds on the INIT state. -/
theorem test_rounds :
    rounds keyed 4 =
      { v0 := 0x3abf7346c94dcef0#64, v1 := 0xb93544252df3d2e3#64, v2 := 0x4757805fba560765#64, v3 := 0x558977760fce9e72#64 } := by
  decide

/-! ### One command each -/

/-- V-IN-1, through a step from reset. -/
theorem test_init :
    holds (step (State.reset.withFetchWord 160 0x0f0e0d0c0b0a0908070605040302010010040201))
      (fun t => t.v == keyed && t.cfgC == 2#8 && t.cfgD == 4#8 && t.phase == .initialized) = true := by decide

/-- V-IN-11: the key length is reported before the round counts; nothing is latched. -/
theorem test_init_priority :
    holds (execute { word := 0x0f000001#32, data := refKey } three)
      (fun t => t.rspErr == 1#4 && t.errs && t.v == three.v && t.bufN == 3#3) = true := by decide

/-- V-AW-1. -/
theorem test_absorbw :
    holds (exec (.absorbw 0x0706050403020100#128) opened)
      (fun t => t.v == { v0 := 0x4a017198de0a59e0#64, v1 := 0x0d52f6f62a4f59a4#64, v2 := 0x634cb3577b01fd3d#64,
                         v3 := 0xa5224d6f55c7d9c8#64 } && t.lenLo == 8#8 && t.phase == .absorbing) = true := by decide

/-- V-AW-8: bytes are buffered. -/
theorem test_absorbw_mid_block : holds (exec (.absorbw 0#128) three) (fun t => t.rspErr == 3#4 && t.bufN == 3#3) = true := by
  decide

/-- V-AB-3: the block is completed by the first five lanes, the rest is held. -/
theorem test_absorbb_across_blocks :
    holds (exec (.absorbb 8#8 0x0a09080706050403#128) three)
      (fun t => t.v.v0 == 0x4a017198de0a59e0#64 && t.buf == 0x0a0908#56 && t.bufN == 3#3 && t.lenLo == 11#8) = true := by decide

/-- V-AB-9: lanes 3 to 15 are ignored. -/
theorem test_absorbb_ignored_lanes :
    holds (exec (.absorbb 3#8 0xffffffffffffffffffffffffff434241#128) opened)
      (fun t => t.buf == 0x434241#56 && t.bufN == 3#3) = true := by decide

/-- V-FN-1 and the state after it. -/
theorem test_final :
    holds (exec (.final 0#128) opened)
      (fun t => t.rspData == 0x726fdb47dd0e0e31#64 && t.result == 0x726fdb47dd0e0e31#64 &&
        t.v.v0 == 0xe738d0dfdc9b2453#64 && t.phase == .finalized) = true := by decide

/-- V-FN-8: seven buffered bytes, padded with the length byte 7. -/
theorem test_final_padding : holds (exec (.final 0#128) seven) (fun t => t.rspData == 0xab0200f58b01d137#64) = true := by decide

/-- V-FR-2. -/
theorem test_finalraw : holds (exec (.finalraw 0#128) opened) (fun t => t.rspData == 0xd0603fb653b6ff59#64) = true := by decide

/-- V-FR-3: bytes are buffered. -/
theorem test_finalraw_mid_block :
    holds (exec (.finalraw 0#128) three) (fun t => t.rspErr == 3#4 && t.result == 0#64 && t.phase == .absorbing) = true := by
  decide

/-- P5, step 5: an illegal word changes LAST_ERR and ERRS alone. -/
theorem test_illegal :
    holds (execute { word := 0x09000003#32, data := 0#128 } opened)
      (fun t => t.rspErr == 4#4 && t.lastErr == 4#4 && t.errs && t.phase == .initialized) = true := by decide

/-! ### The interface -/

/-- P2, step 3, and P5, step 10: PHASE, ERRS, LAST_ERR, BUF_N and LEN_LO in STATUS. -/
theorem test_status :
    statusWord { session .absorbing [8#8, 9#8, 10#8, 11#8, 12#8, 13#8, 14#8] with lenLo := 15#8 } = 0x000f0702#32 ∧
    statusWord { done with errs := true, lastErr := 3#4, lenLo := 2#8 } = 0x0002003b#32 := by decide

/-- A reset edge drops the command in execution (R201). -/
theorem test_reset_in_flight :
    holds (step (driven resetPorts (running { word := 4#32, data := 0#128 } opened)))
      (fun t => t.channel == .idle && t.phase == .idle && t.v == State.reset.v) = true := by decide

/-- A presented command is accepted by an idle core (R205). -/
theorem test_accept :
    holds (step (driven (PortsIn.offer { word := 4#32, data := 0#128 }) opened))
      (fun t => t.channel == .executing { word := 4#32, data := 0#128 } && t.v == keyed) = true := by decide

/-- A response is held without rsp_ready (R207). -/
theorem test_response_held :
    holds (step { opened with channel := .responding, rspErr := 3#4 })
      (fun t => t.channel == .responding && t.rspErr == 3#4) = true := by decide

/-! ### Witnesses: each statement's hypotheses are met by a concrete state and operands -/

/-- A FINAL command. -/
def finalCommand : Command := { word := 0x00000004#32, data := 0#128 }

theorem witness_DecodeOfEncode : (Instr.init 0#8 255#8 16#8 refKey).wellFormed = true := by decide

theorem witness_EncodeOfDecode : decode { word := 0x10ffff01#32, data := refKey } = .legal (.init 255#8 255#8 16#8 refKey) := by decide

theorem witness_ReservedOpcodesAreIllegal :
    (Command.mk 0#32 0#128).op = 0x0#4 ∧ 0x6#4 ≤ (Command.mk 6#32 0#128).op ∧ 0x6#4 ≤ (Command.mk 15#32 0#128).op := by decide

theorem witness_NonzeroFixedFields_reserved :
    0x1#4 ≤ (Command.mk 0x10040211#32 0#128).op ∧ (Command.mk 0x10040211#32 0#128).op ≤ 0x5#4 ∧
    (Command.mk 0x10040211#32 0#128).rsv ≠ 0#4 := by decide

theorem witness_NonzeroFixedFields_rounds :
    (Command.mk 0x00000105#32 0#128).op = 0x5#4 ∧ (Command.mk 0x00000105#32 0#128).c ≠ 0#8 ∧
    (Command.mk 0x00010002#32 0#128).op = 0x2#4 ∧ (Command.mk 0x00010002#32 0#128).d ≠ 0#8 := by decide

theorem witness_NonzeroFixedFields_length :
    (Command.mk 0x01000004#32 0#128).op = 0x4#4 ∧ (Command.mk 0x01000004#32 0#128).len ≠ 0#8 := by decide

theorem witness_NonzeroFixedFields_count :
    (Command.mk 0x09000003#32 0#128).op = 0x3#4 ∧ 8#8 < (Command.mk 0x09000003#32 0#128).len := by decide

theorem witness_UnusedDataBits_legal : ∃ i, decode { word := 2#32, data := 0#128 } = .legal i := ⟨.absorbw 0#128, by decide⟩

/-- The reference key's data operand with lanes 8 to 15 cleared. -/
def lowHalf : Data := 0x0706050403020100#128

theorem witness_UnusedDataBits_word :
    refKey ≠ lowHalf ∧ refKey.extractLsb' 0 64 = lowHalf.extractLsb' 0 64 := by decide

theorem witness_UnusedDataBits_lanes :
    ∀ i, i < (8#8 : Byte).toNat → lane refKey i = lane lowHalf i := by decide

theorem witness_RotateMovesBits : (1#6 : BitVec 6) ≠ 0#6 ∧ (63#6 : BitVec 6) ≠ 0#6 ∧ 0 < 64 ∧ 63 < 64 := by decide

theorem witness_RoundsIterateSipRound : Inv opened ∧ opened.inSession ∧ Inv seven ∧ seven.inSession :=
  ⟨by decide, by decide, by decide, by decide⟩

theorem witness_InitResult :
    ((1#8 : Byte) ≠ 0#8 ∧ (255#8 : Byte) ≠ 0#8) ∧ ((15#8 : Byte) ≠ 16#8 ∧ (17#8 : Byte) ≠ 16#8) ∧
    ((0#8 : Byte) = 0#8 ∨ (4#8 : Byte) = 0#8) ∧ ((2#8 : Byte) = 0#8 ∨ (0#8 : Byte) = 0#8) ∧
    (Command.mk 0xffffff01#32 refKey).word &&& 0x000000FF#32 = 0x00000001#32 ∧
    ((Command.mk 0x10040211#32 refKey).op = 0x1#4 ∧ (Command.mk 0x10040211#32 refKey).rsv ≠ 0#4) := by decide

theorem witness_InitCornerKeys : (1#8 : Byte) ≠ 0#8 ∧ (255#8 : Byte) ≠ 0#8 := by decide

theorem witness_AbsorbwResult :
    (opened.inSession ∧ opened.bufN = 0#3) ∧ (¬ State.reset.inSession ∧ ¬ done.inSession) ∧ seven.bufN ≠ 0#3 ∧
    ((Command.mk 0x00000202#32 0#128).op = 0x2#4 ∧ (Command.mk 0x00000202#32 0#128).word.extractLsb' 4 28 ≠ 0#28) := by decide

theorem witness_AbsorbwOfZeroOnlyMixes :
    opened.inSession ∧ opened.bufN = 0#3 ∧ (0xff0000000000000000#128 : Data).extractLsb' 0 64 = 0#64 := by decide

theorem witness_PackByteAppends :
    (([] : List Byte).length = opened.bufN.toNat ∧ opened.buf = le 56 [] ∧ opened.bufN ≠ 7#3) ∧
    ([0#8, 1#8, 2#8, 3#8, 4#8, 5#8, 6#8].length = seven.bufN.toNat ∧
      seven.buf = le 56 [0#8, 1#8, 2#8, 3#8, 4#8, 5#8, 6#8] ∧ seven.bufN = 7#3) := by decide

theorem witness_AbsorbbResult :
    ((0#8 : Byte) ≤ 8#8 ∧ (8#8 : Byte) ≤ 8#8 ∧ seven.inSession ∧ ¬ done.inSession) ∧
    ((Command.mk 0x08000003#32 0#128).word &&& 0x00FFFFFF#32 = 0x00000003#32 ∧
      (Command.mk 0x08000003#32 0#128).word.extractLsb' 24 8 ≤ 8#8) ∧
    ((Command.mk 0x00010003#32 0#128).op = 0x3#4 ∧ (Command.mk 0x00010003#32 0#128).word.extractLsb' 4 20 ≠ 0#20) ∧
    ((Command.mk 0x09000003#32 0#128).op = 0x3#4 ∧ 8#8 < (Command.mk 0x09000003#32 0#128).len) := by decide

/-- Seven bytes buffered: none more stays below a block, one more completes it. -/
theorem witness_AbsorbbAbsorbsAtMostOneBlock :
    (1#8 : Byte) ≤ 8#8 ∧ seven.inSession ∧ [0#8, 1#8, 2#8, 3#8, 4#8, 5#8, 6#8].length = seven.bufN.toNat ∧
    seven.buf = le 56 [0#8, 1#8, 2#8, 3#8, 4#8, 5#8, 6#8] ∧ 7 + (0#8 : Byte).toNat < 8 ∧ 8 ≤ 7 + (1#8 : Byte).toNat := by decide

theorem witness_AbsorbbOfEightAndOfNone : opened.bufN = 0#3 ∧ opened.buf = 0#56 ∧ opened.inSession := by decide

theorem witness_PadWordPlacesTheLength :
    (([] : List Byte).length ≤ 7 ∧ opened.buf = le 56 []) ∧
    ([0#8, 1#8, 2#8, 3#8, 4#8, 5#8, 6#8].length ≤ 7 ∧ seven.buf = le 56 [0#8, 1#8, 2#8, 3#8, 4#8, 5#8, 6#8]) := by decide

theorem witness_FinalResult :
    seven.inSession ∧ ¬ State.reset.inSession ∧
    ((Command.mk 0x00000014#32 0#128).op = 0x4#4 ∧ (Command.mk 0x00000014#32 0#128).word.extractLsb' 4 28 ≠ 0#28) := by decide

theorem witness_FinalrawResult :
    (opened.inSession ∧ opened.bufN = 0#3) ∧ ¬ done.inSession ∧ three.bufN ≠ 0#3 ∧
    ((Command.mk 0x00010005#32 0#128).op = 0x5#4 ∧ (Command.mk 0x00010005#32 0#128).word.extractLsb' 4 28 ≠ 0#28) := by decide

theorem witness_FinalIsPadThenFinalraw : opened.bufN = 0#3 ∧ opened.buf = 0#56 ∧ opened.inSession := by decide

theorem witness_FinalizedIsTerminal_refusing :
    (Instr.absorbb 8#8 0#128).wellFormed = true ∧ (∀ c d klen key, Instr.absorbb 8#8 0#128 ≠ .init c d klen key) ∧
    done.phase = .finalized := by
  refine ⟨by decide, ?_, by decide⟩
  intro c d klen key h
  cases h

theorem witness_FinalizedIsTerminal_leaving :
    done.phase = .finalized ∧ ∃ t, execute { word := 0x10040201#32, data := refKey } done = .next t ∧ t.phase ≠ .finalized :=
  ⟨by decide, _, rfl, by decide⟩

theorem witness_FailureWritesOnlyErrorRegisters : ∃ t, execute finalCommand done = .next t ∧ t.rspErr ≠ 0#4 :=
  ⟨_, rfl, by decide⟩

theorem witness_FailureWrites_sameError :
    finalCommand.word = (Command.mk 0x00000004#32 refKey).word ∧ opened.phase = (session .initialized []).phase ∧
    ∃ t t', execute finalCommand State.reset = .next t ∧ execute { word := 0x00000004#32, data := refKey } State.reset = .next t' :=
  ⟨rfl, rfl, _, _, rfl, rfl⟩

theorem witness_SessionStateMachine : opened.phase = .initialized ∧ opened.bufN = 0#3 := by decide

theorem witness_ErrsRemembersEveryFailure :
    (∃ t, execute finalCommand opened = .next t ∧ t.rspErr = 0#4) ∧ ∃ t, runCommands [finalCommand] State.reset = .next t :=
  ⟨⟨_, rfl, by decide⟩, _, rfl⟩

theorem witness_ResponsesCarryOutputsOnly : ∃ t, execute finalCommand opened = .next t ∧ t.rspErr = 0#4 ∧ finalCommand.op = 0x4#4 :=
  ⟨_, rfl, by decide, by decide⟩

theorem witness_FailureRepeats : ∃ t, execute finalCommand State.reset = .next t ∧ t.rspErr ≠ 0#4 := ⟨_, rfl, by decide⟩

theorem witness_ExecuteIsTotal :
    decode finalCommand = .legal (.final 0#128) ∧ decode { word := 0#32, data := 0#128 } = .illegal .reservedOpcode := by decide

theorem witness_OnlyTheirWritersWriteRegisters :
    ∃ t, execute { word := 0x01000003#32, data := 0#128 } seven = .next t ∧ t.v ≠ seven.v ∧ t.rspErr = 0#4 :=
  ⟨_, rfl, by decide, by decide⟩

theorem witness_OnlyTheirWriters_configuration :
    ∃ t, execute { word := 0x10040201#32, data := refKey } State.reset = .next t ∧ t.cfgC ≠ State.reset.cfgC ∧ t.rspErr = 0#4 :=
  ⟨_, rfl, by decide, by decide⟩

theorem witness_OnlyTheirWriters_result :
    ∃ t, execute finalCommand opened = .next t ∧ t.result ≠ opened.result := ⟨_, rfl, by decide⟩

theorem witness_RegisterViewFields : ∀ c, opened.channel ≠ .executing c := fun _ h => by cases h

theorem witness_PortsShowTheState :
    (running finalCommand opened).channel = .executing finalCommand ∧ opened.channel = .idle ∧
    ({ opened with channel := .responding } : State).channel = .responding := by decide

theorem witness_ResetFromEveryState : (driven resetPorts (running finalCommand three)).ports.rstN = false := by decide

theorem witness_ResetFromEveryState_errs :
    ∃ t, step { opened with errs := true } = .next t ∧ ({ opened with errs := true } : State).ports.rstN = true := ⟨_, rfl, rfl⟩

theorem witness_HeldCommandIsAccepted :
    (driven (PortsIn.offer finalCommand) opened).ports.rstN = true ∧ (driven (PortsIn.offer finalCommand) opened).channel = .idle ∧
    (driven (PortsIn.offer finalCommand) opened).ports.cmdValid = true ∧
    ∀ c ∈ ({ driven (PortsIn.offer finalCommand) opened with waiting := [finalCommand] } : State).waiting,
      c = (driven (PortsIn.offer finalCommand) opened).ports.cmd := by decide

theorem witness_AcceptedValuesWerePresented :
    ∃ t, (driven (PortsIn.offer finalCommand) opened).channel = .idle ∧
      step (driven (PortsIn.offer finalCommand) opened) = .next t ∧ t.channel = .executing finalCommand :=
  ⟨_, rfl, rfl, rfl⟩

theorem witness_OneCommandInFlight_busy :
    ∃ t, step (running finalCommand opened) = .next t ∧ (running finalCommand opened).cmdReady true = false ∧
      (running finalCommand opened).ports.rstN = true ∧ (running finalCommand opened).channel = .executing finalCommand :=
  ⟨_, rfl, rfl, rfl, rfl⟩

theorem witness_OneCommandInFlight_responding :
    ∃ t, step { opened with channel := .responding } = .next t ∧
      ({ opened with channel := .responding } : State).ports.rstN = true := ⟨_, rfl, rfl⟩

theorem witness_ResponseIsHeldUntilTaken :
    (({ opened with channel := .responding } : State).ports.rstN = true ∧
      ({ opened with channel := .responding } : State).ports.rspReady = false) ∧
    (driven PortsIn.take { opened with channel := .responding }).ports.rspReady = true := by decide

theorem witness_OnlyCommandsAndResetChangeRegisters :
    (∃ t, step (driven (PortsIn.offer finalCommand) opened) = .next t ∧
      (driven (PortsIn.offer finalCommand) opened).ports.rstN = true) ∧
    (opened.channel = .idle ∧ opened.waiting = [] ∧ opened.inputs = []) := ⟨⟨_, rfl, rfl⟩, by decide⟩

theorem witness_StepRunsTheDecodedInstruction :
    (running finalCommand opened).channel = .executing finalCommand ∧ (running finalCommand opened).ports.rstN = true ∧
    decode finalCommand = .legal (.final 0#128) := by decide

theorem witness_StepRuns_illegal :
    (running { word := 0#32, data := 0#128 } opened).ports.rstN = true ∧
    decode { word := 0#32, data := 0#128 } = .illegal .reservedOpcode := by decide

theorem witness_FetchWordRunsNext : decodeTableWord 32 0x00000005 = some (.finalraw 0#128) := by decide

theorem witness_HandshakeIsOneExecute :
    ({ opened with inputs := handshake finalCommand } : State).channel = .idle ∧
    ({ opened with inputs := handshake finalCommand } : State).waiting = [] ∧
    ({ opened with inputs := handshake finalCommand } : State).inputs = handshake finalCommand ++ [] := by decide

theorem witness_ScriptIsTheFoldOfExecute :
    ({ opened with inputs := script [finalCommand, finalCommand] } : State).channel = .idle ∧
    ({ opened with inputs := script [finalCommand, finalCommand] } : State).waiting = [] ∧
    ({ opened with inputs := script [finalCommand, finalCommand] } : State).inputs = script [finalCommand, finalCommand] ++ [] ∧
    1 < [finalCommand, finalCommand].length := by decide

theorem witness_StepKeepsTheInvariant : Inv seven ∧ Inv (running finalCommand seven) ∧ ∃ t, step (running finalCommand seven) = .next t :=
  ⟨by decide, by decide, _, rfl⟩

theorem witness_HashProgramComputesSipHash :
    (1#8 : Byte) ≠ 0#8 ∧ (255#8 : Byte) ≠ 0#8 ∧ (lanes refKey 16).length = 16 ∧
    hashProgram 1#8 255#8 (lanes refKey 16) [0#8] ∈
      [hashProgram 1#8 255#8 (lanes refKey 16) [0#8], hashProgramW 1#8 255#8 (lanes refKey 16) [0#8]] := by decide

theorem witness_RawSurfaceEqualsOneShot : (2#8 : Byte) ≠ 0#8 ∧ (4#8 : Byte) ≠ 0#8 ∧ (lanes refKey 16).length = 16 := by decide

/-- A word, then three bytes and five, then a word again. -/
theorem witness_IntakeDependsOnTheMessageAlone :
    opened.phase = .initialized ∧ opened.buf = 0#56 ∧ opened.bufN = 0#3 ∧ opened.lenLo = 0#8 ∧
    intakeAllowed 0 [.word 7#64, .bytes [1#8, 2#8, 3#8], .bytes [4#8, 5#8, 6#8, 7#8, 8#8], .word 9#64] = true := by decide

/-- An error, and each command succeeding. -/
theorem witness_ReferenceLatencies :
    (∃ t, execute finalCommand done = .next t ∧ t.rspErr ≠ 0#4) ∧
    (∃ t, execute { word := 0x10040201#32, data := refKey } done = .next t ∧ t.rspErr = 0#4) ∧
    (∃ t, execute { word := 0x00000002#32, data := 0#128 } opened = .next t ∧ t.rspErr = 0#4) ∧
    (∃ t, execute finalCommand seven = .next t ∧ t.rspErr = 0#4) ∧
    (∃ t, execute { word := 0x00000005#32, data := 0#128 } opened = .next t ∧ t.rspErr = 0#4) :=
  ⟨⟨_, rfl, by decide⟩, ⟨_, rfl, by decide⟩, ⟨_, rfl, by decide⟩, ⟨_, rfl, by decide⟩, _, rfl, by decide⟩

/-- Seven bytes buffered: an ABSORBB of none completes no block, an ABSORBB of one completes it. -/
theorem witness_ReferenceLatencies_absorbb :
    (∃ t, execute { word := 0x00000003#32, data := 0#128 } seven = .next t ∧ t.rspErr = 0#4 ∧ seven.bufN.toNat + 0 < 8) ∧
    (∃ t, execute { word := 0x01000003#32, data := 0#128 } seven = .next t ∧ t.rspErr = 0#4 ∧ 8 ≤ seven.bufN.toNat + 1) :=
  ⟨⟨_, rfl, by decide, by decide⟩, _, rfl, by decide, by decide⟩

end Sys2Proof.Machine.Test
end

section
/-!
The decoder read backwards: which fields of a command stand behind a decoded instruction (R72, R79).
-/

namespace Sys2Proof

/-- The opcode, the operand fields and the data operand of a command are those of the instruction; the count of an ABSORBB is
a legal one (R70, R72). -/
def Command.Carries (c : Command) : Instr → Prop
  | .init cr dr klen key => c.op = 1#4 ∧ c.c = cr ∧ c.d = dr ∧ c.len = klen ∧ c.data = key
  | .absorbw data => c.op = 2#4 ∧ c.data = data
  | .absorbb n data => c.op = 3#4 ∧ c.len = n ∧ n ≤ 8#8 ∧ c.data = data
  | .final data => c.op = 4#4 ∧ c.data = data
  | .finalraw data => c.op = 5#4 ∧ c.data = data

theorem carries_of_decode {c : Command} {i : Instr} (h : decode c = .legal i) : c.Carries i := by
  unfold decode at h
  split_ifs at h with _ h1 h2 _ h3 _ hn h4 _ h5 _
  all_goals cases h
  · exact ⟨h1, rfl, rfl, rfl, rfl⟩
  · exact ⟨h2, rfl⟩
  · exact ⟨h3, rfl, hn, rfl⟩
  · exact ⟨h4, rfl⟩
  · exact ⟨h5, rfl⟩

theorem wellFormed_of_decode {c : Command} {i : Instr} (h : decode c = .legal i) : i.wellFormed = true := by
  have hc := carries_of_decode h
  cases i with
  | absorbb n data =>
    obtain ⟨-, -, hn, -⟩ := hc
    exact decide_eq_true hn
  | init | absorbw | final | finalraw => rfl

end Sys2Proof
end

section
/-!
Execute (R80): it always answers a next state, and what it does to a state, told by the fields of the command word.
-/

namespace Sys2Proof.Machine

theorem execute_legal {c : Command} {i : Instr} (h : decode c = .legal i) (s : State) : execute c s = exec i s := by
  simp only [execute, h]

theorem execute_illegal {c : Command} {cause : IllegalCause} (h : decode c = .illegal cause) (s : State) :
    execute c s = .next (s.raise .illegalCommand) := by
  simp only [execute, h]

theorem exec_answers (i : Instr) (s : State) : ∃ t, exec i s = .next t := by
  cases i with
  | init c d klen key => simp only [exec, execInit]; split_ifs <;> exact ⟨_, rfl⟩
  | absorbw data => simp only [exec, execAbsorbw]; split_ifs <;> exact ⟨_, rfl⟩
  | absorbb n data => simp only [exec, execAbsorbb]; split_ifs <;> exact ⟨_, rfl⟩
  | final data => simp only [exec, execFinal]; split_ifs <;> exact ⟨_, rfl⟩
  | finalraw data => simp only [exec, execFinalraw]; split_ifs <;> exact ⟨_, rfl⟩

theorem execute_answers (c : Command) (s : State) : ∃ t, execute c s = .next t := by
  cases hd : decode c with
  | legal i => rw [execute_legal hd]; exact exec_answers i s
  | illegal cause => exact ⟨_, execute_illegal hd s⟩

/-- `execute_cases` with the decoded instruction replaced by the fields of the command word it was read from (R70, R80). -/
theorem execute_cases_op {c : Command} {s t : State} (h : execute c s = .next t) :
    (∃ e, t = s.raise e) ∨
    (c.op = 1#4 ∧ c.c ≠ 0#8 ∧ c.d ≠ 0#8 ∧ t = (s.startSession c.c c.d c.data).succeed 0#64) ∨
    (c.op = 2#4 ∧ s.inSession ∧ s.bufN = 0#3 ∧ t = (s.absorbWord (messageWord c.data)).succeed 0#64) ∨
    (c.op = 3#4 ∧ s.inSession ∧ t = (s.absorbBytes (lanes c.data c.len.toNat)).succeed 0#64) ∨
    (c.op = 4#4 ∧ s.inSession ∧ t = s.padAndFinalize.succeed s.padAndFinalize.result) ∨
    (c.op = 5#4 ∧ s.inSession ∧ s.bufN = 0#3 ∧ t = (s.finalizeFrom s.v).succeed (s.finalizeFrom s.v).result) := by
  obtain h | ⟨cr, dr, key, hd, hc0, hd0, h⟩ | ⟨data, hd, hs, hb, h⟩ | ⟨n, data, hd, -, hs, h⟩ | ⟨data, hd, hs, h⟩ |
    ⟨data, hd, hs, hb, h⟩ := execute_cases h
  · exact .inl h
  · obtain ⟨hop, rfl, rfl, -, rfl⟩ := carries_of_decode hd
    exact .inr (.inl ⟨hop, hc0, hd0, h⟩)
  · obtain ⟨hop, rfl⟩ := carries_of_decode hd
    exact .inr (.inr (.inl ⟨hop, hs, hb, h⟩))
  · obtain ⟨hop, rfl, -, rfl⟩ := carries_of_decode hd
    exact .inr (.inr (.inr (.inl ⟨hop, hs, h⟩)))
  · obtain ⟨hop, -⟩ := carries_of_decode hd
    exact .inr (.inr (.inr (.inr (.inl ⟨hop, hs, h⟩))))
  · obtain ⟨hop, -⟩ := carries_of_decode hd
    exact .inr (.inr (.inr (.inr (.inr ⟨hop, hs, hb, h⟩))))

/-- No error is reported as success (R171). -/
@[simp] theorem SipError.code_ne_zero (e : SipError) : e.code ≠ 0#4 := by cases e <;> decide

theorem SipError.code_le_four (e : SipError) : e.code ≤ 4#4 := by cases e <;> decide

end Sys2Proof.Machine
end

section
/-!
The byte packer (R132): its two equations, and what any number of bytes does to v0-v3, BUF and BUF_N.
-/

namespace Sys2Proof.Machine

theorem packByte_of_eq_seven {s : State} (h : s.bufN = 7#3) (b : Byte) :
    packByte s b =
      { s with lenLo := s.lenLo + 1#8, v := absorbCore s.v (packWord b s) s.cfgC, buf := 0#56, bufN := 0#3 } :=
  if_pos h

theorem packByte_of_ne_seven {s : State} (h : s.bufN ≠ 7#3) (b : Byte) :
    packByte s b =
      { s with lenLo := s.lenLo + 1#8, buf := (packWord b s).setWidth 56, bufN := s.bufN + 1#3 } :=
  if_neg h

/-- Counting a byte into a block that it leaves short does not wrap. -/
theorem toNat_add_one_of_ne_seven {n : BitVec 3} (h : n ≠ 7#3) : (n + 1#3).toNat = n.toNat + 1 := by
  bv_omega

/-- Bytes that leave the block short leave the register file (R133). -/
theorem packBytes_v_of_lt {s : State} {bs : List Byte} (h : s.bufN.toNat + bs.length < 8) : (packBytes s bs).v = s.v := by
  induction bs generalizing s with
  | nil => rfl
  | cons b bs ih =>
    rw [List.length_cons] at h
    have h7 : s.bufN ≠ 7#3 := by rintro h7; simp [h7] at h; omega
    have hn := toNat_add_one_of_ne_seven h7
    rw [packBytes_cons, packByte_of_ne_seven h7, ih (by simp only [hn]; omega)]

/-- BUF is clean past BUF_N exactly when it is the packing of BUF_N bytes (R25, R51). -/
theorem bufferClean_iff_exists_le (s : State) :
    bufferClean s ↔ ∃ p : List Byte, p.length = s.bufN.toNat ∧ s.buf = le 56 p := by
  constructor
  · intro h
    refine ⟨(List.range s.bufN.toNat).map fun i => s.buf.extractLsb' (8 * i) 8, by simp, ?_⟩
    apply BitVec.eq_of_getLsbD_eq
    intro i hi
    rw [getLsbD_le]
    by_cases hn : i / 8 < s.bufN.toNat
    · have h1 : i % 8 < 8 := by omega
      have h2 : 8 * (i / 8) + i % 8 = i := by omega
      simp [-BitVec.getLsbD_eq_getElem, hi, hn, h1, h2]
    · have hz : s.buf.getLsbD (8 * s.bufN.toNat + (i - 8 * s.bufN.toNat)) = false := by
        rw [← BitVec.getLsbD_ushiftRight, h, BitVec.getLsbD_zero]
      have h3 : 8 * s.bufN.toNat + (i - 8 * s.bufN.toNat) = i := by omega
      rw [h3] at hz
      simp [-BitVec.getLsbD_eq_getElem, hn, hz]
  · rintro ⟨p, hn, hb⟩
    rw [bufferClean, hb, ← hn, le_shiftRight_length]

theorem bufferClean_packByte {s : State} (h : bufferClean s) (b : Byte) : bufferClean (packByte s b) := by
  by_cases h7 : s.bufN = 7#3
  · simp [bufferClean, packByte_of_eq_seven h7]
  · obtain ⟨p, hn, hb⟩ := (bufferClean_iff_exists_le s).mp h
    refine (bufferClean_iff_exists_le _).mpr ⟨p ++ [b], ?_, ?_⟩
    · simp [packByte_of_ne_seven h7, toNat_add_one_of_ne_seven h7, hn]
    · rw [packByte_of_ne_seven h7, packWord_eq_le p b s hn hb, setWidth_le_of_le (by decide)]

theorem bufferClean_packBytes {s : State} (h : bufferClean s) (bs : List Byte) : bufferClean (packBytes s bs) :=
  List.foldlRecOn bs packByte h fun _ hu b _ => bufferClean_packByte hu b

/-- BUF_N is LEN_LO modulo 8 (R26). -/
def countsAgree (s : State) : Prop := s.lenLo.toNat % 8 = s.bufN.toNat

theorem countsAgree_packByte {s : State} (h : countsAgree s) (b : Byte) : countsAgree (packByte s b) := by
  unfold countsAgree at *
  by_cases h7 : s.bufN = 7#3
  · rw [packByte_of_eq_seven h7]
    have hn : s.bufN.toNat = 7 := congrArg BitVec.toNat h7
    simp only [BitVec.toNat_add, BitVec.toNat_ofNat]
    omega
  · rw [packByte_of_ne_seven h7]
    simp only [toNat_add_one_of_ne_seven h7, BitVec.toNat_add, BitVec.toNat_ofNat]
    have := toNat_add_one_of_ne_seven h7
    have := (s.bufN + 1#3).isLt
    omega

theorem countsAgree_packBytes {s : State} (h : countsAgree s) (bs : List Byte) : countsAgree (packBytes s bs) :=
  List.foldlRecOn bs packByte h fun _ hu b _ => countsAgree_packByte hu b

end Sys2Proof.Machine
end

section
/-!
The invariant. Its register part speaks of the architectural registers but LAST_ERR and ERRS; every response, error or success,
re-establishes the rest.
-/

namespace Sys2Proof.Machine

/-- The part of the invariant about the registers of the session. -/
def SessionInv (s : State) : Prop :=
  bufferClean s ∧ roundsLatched s ∧ bufferTracksLength s ∧ freshSession s ∧ idleBlank s

theorem inv_iff (s : State) : Inv s ↔ SessionInv s ∧ errorCodes s ∧ responseAgrees s := by
  simp only [Inv, SessionInv, and_assoc]

/-- The register part of the invariant reads the architectural registers only. -/
theorem sessionInv_of_arch_eq {s t : State} (h : SessionInv s) (ha : t.arch = s.arch) : SessionInv t := by
  obtain ⟨v, phase, cfgC, cfgD, buf, bufN, lenLo, result, lastErr, errs, channel, rspErr, rspData, waiting, inputs, draws⟩ := t
  simp only [State.arch, Arch.mk.injEq] at ha
  obtain ⟨rfl, rfl, rfl, rfl, rfl, rfl, rfl, rfl, -, -⟩ := ha
  exact h

/-- Raising an error keeps the invariant (R174). -/
theorem inv_raise {s : State} (h : SessionInv s) (e : SipError) : Inv (s.raise e) := by
  refine (inv_iff _).mpr ⟨h, ⟨e.code_le_four, e.code_le_four, fun _ => rfl⟩, fun _ => ⟨rfl, ?_⟩⟩
  simp

/-- Success keeps the invariant when the response is the output in Finalized and 0 elsewhere (R176). -/
theorem inv_succeed {s : State} {x : Word} (h : SessionInv s) (hx : x = if s.phase = .finalized then s.result else 0#64) :
    Inv (s.succeed x) := by
  refine (inv_iff _).mpr ⟨h, ⟨by simp, by simp, by simp⟩, fun _ => ⟨rfl, ?_⟩⟩
  simpa using hx

theorem sessionInv_startSession {c d : Byte} (hc : c ≠ 0#8) (hd : d ≠ 0#8) (key : Data) (s : State) :
    SessionInv (s.startSession c d key) := by
  refine ⟨?_, ⟨?_, fun _ => ⟨hc, hd⟩⟩, ⟨fun _ => rfl, fun _ => rfl⟩, fun _ => rfl, ?_⟩
  · simp [bufferClean]
  · simp
  · simp

theorem SessionInv.bufferClean {s : State} (h : SessionInv s) : bufferClean s := h.1

theorem SessionInv.roundCounts_ne_zero {s : State} (h : SessionInv s) (hs : s.inSession) : s.cfgC ≠ 0#8 ∧ s.cfgD ≠ 0#8 := by
  obtain ⟨-, ⟨-, hr⟩, -⟩ := h
  refine hr fun hidle => ?_
  simp [State.inSession, hidle] at hs

theorem SessionInv.countsAgree {s : State} (h : SessionInv s) (hs : s.inSession) : countsAgree s := by
  obtain ⟨-, -, ⟨-, ht⟩, -⟩ := h
  exact ht ((sessionOpen_iff s).mpr hs)

/-- A state with an open session and bytes taken in meets the register part when its buffer and its counts do. -/
theorem sessionInv_of_absorbing {s : State} (hp : s.phase = .absorbing) (hb : bufferClean s)
    (hr : s.cfgC ≠ 0#8 ∧ s.cfgD ≠ 0#8) (hn : countsAgree s) : SessionInv s :=
  ⟨hb, ⟨by simp [hp], fun _ => hr⟩, ⟨by simp [hp], fun _ => hn⟩, by simp [hp], by simp [hp]⟩

/-- A state with a finished session meets the register part when nothing is buffered. -/
theorem sessionInv_of_finalized {s : State} (hp : s.phase = .finalized) (hb : bufferClean s)
    (hr : s.cfgC ≠ 0#8 ∧ s.cfgD ≠ 0#8) (hn : s.bufN = 0#3) : SessionInv s :=
  ⟨hb, ⟨by simp [hp], fun _ => hr⟩, ⟨fun _ => hn, by simp [State.sessionOpen, hp]⟩, by simp [hp], by simp [hp]⟩

theorem sessionInv_absorbWord {s : State} (h : SessionInv s) (hs : s.inSession) (m : Word) :
    SessionInv (s.absorbWord m) := by
  refine sessionInv_of_absorbing rfl h.bufferClean (h.roundCounts_ne_zero hs) ?_
  have hn := h.countsAgree hs
  simp only [Machine.countsAgree, State.absorbWord_lenLo, State.absorbWord_bufN, BitVec.toNat_add, BitVec.toNat_ofNat] at *
  omega

theorem sessionInv_absorbBytes {s : State} (h : SessionInv s) (hs : s.inSession) (bs : List Byte) :
    SessionInv (s.absorbBytes bs) := by
  refine sessionInv_of_absorbing rfl (bufferClean_packBytes h.bufferClean bs) ?_ (countsAgree_packBytes (h.countsAgree hs) bs)
  simpa using h.roundCounts_ne_zero hs

theorem sessionInv_padAndFinalize {s : State} (h : SessionInv s) (hs : s.inSession) : SessionInv s.padAndFinalize :=
  sessionInv_of_finalized rfl (by simp [bufferClean]) (h.roundCounts_ne_zero hs) rfl

theorem sessionInv_finalizeFrom {s : State} (h : SessionInv s) (hs : s.inSession) (hn : s.bufN = 0#3) (v : SipState) :
    SessionInv (s.finalizeFrom v) :=
  sessionInv_of_finalized rfl h.bufferClean (h.roundCounts_ne_zero hs) hn

/-- Every command, succeeding or not, leaves the whole invariant if it finds the register part (R80). -/
theorem inv_of_execute {c : Command} {s t : State} (h : SessionInv s) (ht : execute c s = .next t) : Inv t := by
  obtain ⟨e, rfl⟩ | ⟨-, hc, hd, rfl⟩ | ⟨-, hs, -, rfl⟩ | ⟨-, hs, rfl⟩ | ⟨-, hs, rfl⟩ | ⟨-, hs, hn, rfl⟩ :=
    execute_cases_op ht
  · exact inv_raise h e
  · exact inv_succeed (sessionInv_startSession hc hd _ s) rfl
  · exact inv_succeed (sessionInv_absorbWord h hs _) rfl
  · exact inv_succeed (sessionInv_absorbBytes h hs _) rfl
  · exact inv_succeed (sessionInv_padAndFinalize h hs) rfl
  · exact inv_succeed (sessionInv_finalizeFrom h hs hn _) rfl

/-- Settles O51. -/
theorem resetMeetsTheInvariant : Obligations.ResetMeetsTheInvariant := by
  unfold Obligations.ResetMeetsTheInvariant
  decide

/-- Reset meets the invariant whatever the host drives next (R201). -/
theorem inv_resetAction (s : State) : Inv s.resetAction := resetMeetsTheInvariant

/-- An edge that changes no register and leaves no response waiting keeps the invariant if rsp_err shows a legal code. -/
theorem inv_of_arch_eq {s t : State} (h : Inv s) (ha : t.arch = s.arch) (he : t.rspErr ≤ 4#4)
    (hc : t.channel ≠ .responding) : Inv t := by
  obtain ⟨hr, ⟨hl, -, hs⟩, -⟩ := (inv_iff s).mp h
  have hlast : t.lastErr = s.lastErr := congrArg Arch.lastErr ha
  have herrs : t.errs = s.errs := congrArg Arch.errs ha
  refine (inv_iff t).mpr ⟨sessionInv_of_arch_eq hr ha, ⟨hlast ▸ hl, he, ?_⟩, fun h => absurd h hc⟩
  rw [hlast, herrs]
  exact hs

/-- An edge of an idle core keeps the invariant, whether or not it accepts a command (R186, R205). -/
theorem inv_idleEdge {s : State} (h : Inv s) (hc : s.channel = .idle) (p : PortsIn) : Inv (s.idleEdge p) := by
  obtain ⟨-, ⟨-, he, -⟩, -⟩ := (inv_iff s).mp h
  obtain ⟨ha, hrsp, -, -⟩ := idleEdge_frame p s
  refine inv_of_arch_eq h ha (hrsp ▸ he) ?_
  obtain hi | ⟨c, hx⟩ := idleEdge_channel p s hc
  · simp [hi]
  · simp [hx]

/-- The value rsp_err is left with after a transfer is one of the codes 0 to 4 (log 7). -/
theorem ofNat_val_le_four (k : Fin 5) : BitVec.ofNat 4 k.val ≤ 4#4 := by
  revert k; decide

/-- An edge with a response waiting keeps the invariant, whether it is held or transferred (R207). -/
theorem inv_responseEdge {s : State} (h : Inv s) (p : PortsIn) : Inv (s.responseEdge p) := by
  obtain ⟨ha, -⟩ := responseEdge_frame p s
  by_cases hp : p.rspReady = true
  · refine inv_of_arch_eq h ha ?_ ?_
    · simpa only [State.responseEdge, if_pos hp] using ofNat_val_le_four _
    · simp [State.responseEdge, hp]
  · rw [State.responseEdge, if_neg hp]
    exact h

/-- Settles O52: by the kind of edge; a command's effect by `inv_of_execute`, the other edges change no register or reset all. -/
theorem stepKeepsTheInvariant : Obligations.StepKeepsTheInvariant := by
  intro s t h hstep
  have hadv : Inv s.advance := h
  obtain ⟨hreg, -⟩ := (inv_iff s).mp h
  obtain ⟨-, rfl⟩ | ⟨-, hc, rfl⟩ | ⟨-, c, -, hx⟩ | ⟨-, -, rfl⟩ := step_cases hstep
  · exact inv_resetAction _
  · exact inv_idleEdge hadv hc _
  · exact inv_of_execute (s := s.advance.noteOffer s.ports) hreg hx
  · exact inv_responseEdge hadv _

end Sys2Proof.Machine
end

section
/-!
The session state machine (R43): the meaning of every instruction follows its entry of the table.
-/

namespace Sys2Proof.Machine

/-- From `s`, the state `t` is what the table's entry for `i` says: the next PHASE, or PHASE unchanged and the error. -/
def FollowsTable (i : Instr) (s t : State) : Prop :=
  match sessionTable i s.phase s.bufN with
  | .ok p => t.phase = p ∧ t.rspErr = 0#4
  | .error e => t.phase = s.phase ∧ t.rspErr = e.code

theorem followsTable_raise {i : Instr} {s : State} {e : SipError} (h : sessionTable i s.phase s.bufN = .error e) :
    FollowsTable i s (s.raise e) := by
  simp [FollowsTable, h]

theorem followsTable_succeed {i : Instr} {s u : State} (h : sessionTable i s.phase s.bufN = .ok u.phase) (x : Word) :
    FollowsTable i s (u.succeed x) := by
  simp [FollowsTable, h]

/-- Without a session every command but INIT has the entry InvalidState. -/
theorem sessionTable_of_not_inSession {i : Instr} (hi : ∀ c d klen key, i ≠ .init c d klen key) {s : State}
    (h : ¬ s.inSession) (n : BitVec 3) : sessionTable i s.phase n = .error .invalidState := by
  cases i with
  | init c d klen key => exact absurd rfl (hi c d klen key)
  | absorbw | absorbb | final | finalraw =>
    cases hp : s.phase with
    | idle | finalized => rfl
    | initialized | absorbing => simp [hp] at h

/-- With bytes buffered, ABSORBW and FINALRAW have the entry InvalidState wherever a session can have them. -/
theorem sessionTable_of_buffered {s : State} (hb : s.phase = .initialized → s.bufN = 0#3) (hn : s.bufN ≠ 0#3) (data : Data) :
    sessionTable (.absorbw data) s.phase s.bufN = .error .invalidState ∧
    sessionTable (.finalraw data) s.phase s.bufN = .error .invalidState := by
  cases hp : s.phase with
  | initialized => exact absurd (hb hp) hn
  | idle | absorbing | finalized => simp [sessionTable, hn]

theorem exec_followsTable {i : Instr} {s t : State} (hw : i.wellFormed = true)
    (hb : s.phase = .initialized → s.bufN = 0#3) (h : exec i s = .next t) : FollowsTable i s t := by
  cases i with
  | init c d klen key =>
    obtain ⟨hk, rfl⟩ | ⟨hk, hz, rfl⟩ | ⟨hk, hc, hd, rfl⟩ := execInit_cases h
    · exact followsTable_raise (by simp [sessionTable, hk])
    · exact followsTable_raise (by simp [sessionTable, hk, hz])
    · exact followsTable_succeed (by simp [sessionTable, hk, hc, hd]) _
  | absorbw data =>
    obtain ⟨hs | hn, rfl⟩ | ⟨hs, hn, rfl⟩ := execAbsorbw_cases h
    · exact followsTable_raise (sessionTable_of_not_inSession (by simp) hs _)
    · exact followsTable_raise (sessionTable_of_buffered hb hn data).1
    · exact followsTable_succeed (by obtain hp | hp := hs <;> simp [sessionTable, hp, hn]) _
  | absorbb n data =>
    obtain ⟨hn, rfl⟩ | ⟨-, hs, rfl⟩ | ⟨-, hs, rfl⟩ := execAbsorbb_cases h
    · exact absurd hn (BitVec.not_lt.mpr (of_decide_eq_true hw))
    · exact followsTable_raise (sessionTable_of_not_inSession (by simp) hs _)
    · exact followsTable_succeed (by obtain hp | hp := hs <;> simp [sessionTable, hp]) _
  | final data =>
    obtain ⟨hs, rfl⟩ | ⟨hs, rfl⟩ := execFinal_cases (data := data) h
    · exact followsTable_raise (sessionTable_of_not_inSession (by simp) hs _)
    · exact followsTable_succeed (by obtain hp | hp := hs <;> simp [sessionTable, hp]) _
  | finalraw data =>
    obtain ⟨hs | hn, rfl⟩ | ⟨hs, hn, rfl⟩ := execFinalraw_cases (data := data) h
    · exact followsTable_raise (sessionTable_of_not_inSession (by simp) hs _)
    · exact followsTable_raise (sessionTable_of_buffered hb hn data).2
    · exact followsTable_succeed (by obtain hp | hp := hs <;> simp [sessionTable, hp, hn]) _

/-- Every command keeps the buffer empty in Initialized: only INIT enters it, and an error changes neither (R43). -/
theorem execute_keeps_initialized_empty {c : Command} {s t : State} (hb : s.phase = .initialized → s.bufN = 0#3)
    (h : execute c s = .next t) : t.phase = .initialized → t.bufN = 0#3 := by
  obtain ⟨e, rfl⟩ | ⟨-, -, -, rfl⟩ | ⟨-, -, -, rfl⟩ | ⟨-, -, rfl⟩ | ⟨-, -, rfl⟩ | ⟨-, -, -, rfl⟩ := execute_cases_op h
  case inl => exact hb
  case inr.inl => exact fun _ => rfl
  all_goals simp

/-- Settles O31: an illegal word raises IllegalCommand, a legal one has its meaning, which follows the table. -/
theorem sessionStateMachine : Obligations.SessionStateMachine := by
  refine ⟨fun _ => rfl, fun c s hb => ?_⟩
  obtain ⟨t, ht⟩ := execute_answers c s
  refine ⟨t, ht, execute_keeps_initialized_empty hb ht, ?_⟩
  cases hd : decode c with
  | illegal cause =>
    cases (execute_illegal hd s).symm.trans ht
    exact ⟨rfl, rfl⟩
  | legal i =>
    rw [execute_legal hd] at ht
    exact exec_followsTable (wellFormed_of_decode hd) hb ht

end Sys2Proof.Machine
end

section
/-!
Who writes which register, by the opcode of the command (R21, R24, R27).
-/

namespace Sys2Proof.Machine

/-- The register file is written by a successful command only, and by an ABSORBB only when it completes a block (R21). -/
theorem execute_writes_v {c : Command} {s t : State} (h : execute c s = .next t) (hv : t.v ≠ s.v) :
    t.rspErr = 0#4 ∧
      (c.op = 0x1#4 ∨ c.op = 0x2#4 ∨ c.op = 0x4#4 ∨ c.op = 0x5#4 ∨
        (c.op = 0x3#4 ∧ 8 ≤ s.bufN.toNat + c.len.toNat)) := by
  obtain ⟨e, rfl⟩ | ⟨hop, -, -, rfl⟩ | ⟨hop, -, -, rfl⟩ | ⟨hop, -, rfl⟩ | ⟨hop, -, rfl⟩ | ⟨hop, -, -, rfl⟩ :=
    execute_cases_op h
  case inl => exact absurd rfl hv
  case inr.inr.inr.inl =>
    have hlen : 8 ≤ s.bufN.toNat + c.len.toNat := by
      by_contra hlt
      exact hv (packBytes_v_of_lt (by rw [length_lanes]; omega))
    simp [hop, hlen]
  all_goals simp [hop]

/-- CFG_C and CFG_D are written by a successful INIT only (R24). -/
theorem execute_writes_cfg {c : Command} {s t : State} (h : execute c s = .next t)
    (hcfg : t.cfgC ≠ s.cfgC ∨ t.cfgD ≠ s.cfgD) : t.rspErr = 0#4 ∧ c.op = 0x1#4 := by
  obtain ⟨e, rfl⟩ | ⟨hop, -, -, rfl⟩ | ⟨-, -, -, rfl⟩ | ⟨-, -, rfl⟩ | ⟨-, -, rfl⟩ | ⟨-, -, -, rfl⟩ := execute_cases_op h
  case inr.inl => exact ⟨rfl, hop⟩
  all_goals simp at hcfg

/-- A successful INIT latches the round counts of its command word (R24). -/
theorem execute_init_latches {c : Command} {s t : State} (h : execute c s = .next t) (he : t.rspErr = 0#4)
    (hop : c.op = 0x1#4) : t.cfgC = c.c ∧ t.cfgD = c.d := by
  obtain ⟨e, rfl⟩ | ⟨-, -, -, rfl⟩ | ⟨ho, -⟩ | ⟨ho, -⟩ | ⟨ho, -⟩ | ⟨ho, -⟩ := execute_cases_op h
  case inl => exact absurd he e.code_ne_zero
  case inr.inl => exact ⟨rfl, rfl⟩
  all_goals simp [hop] at ho

/-- RESULT is written by a successful FINAL or FINALRAW only (R27). -/
theorem execute_writes_result {c : Command} {s t : State} (h : execute c s = .next t) (hr : t.result ≠ s.result) :
    t.rspErr = 0#4 ∧ (c.op = 0x4#4 ∨ c.op = 0x5#4) := by
  obtain ⟨e, rfl⟩ | ⟨-, -, -, rfl⟩ | ⟨-, -, -, rfl⟩ | ⟨-, -, rfl⟩ | ⟨hop, -, rfl⟩ | ⟨hop, -, -, rfl⟩ := execute_cases_op h
  case inr.inr.inr.inr.inl => exact ⟨rfl, .inl hop⟩
  case inr.inr.inr.inr.inr => exact ⟨rfl, .inr hop⟩
  all_goals simp at hr

/-- A command takes no input sample, no waiting offer and no free value (R80). -/
theorem execute_host_frame {c : Command} {s t : State} (h : execute c s = .next t) :
    t.waiting = s.waiting ∧ t.inputs = s.inputs ∧ t.draws = s.draws := by
  obtain ⟨e, rfl⟩ | ⟨-, -, -, rfl⟩ | ⟨-, -, -, rfl⟩ | ⟨-, -, rfl⟩ | ⟨-, -, rfl⟩ | ⟨-, -, -, rfl⟩ := execute_cases_op h
  all_goals simp

/-- Settles O36. -/
theorem onlyTheirWritersWriteRegisters : Obligations.OnlyTheirWritersWriteRegisters := fun _ _ _ h =>
  ⟨execute_writes_v h, execute_writes_cfg h, execute_init_latches h, execute_writes_result h, execute_host_frame h⟩

end Sys2Proof.Machine
end

section
/-!
The STATUS view and the register views (R20, R23, R30, R31), and the reset values (R44).
-/

namespace Sys2Proof.Machine

theorem flagBit_eq_ite (b : Bool) : flagBit b = if b then 1#1 else 0#1 := by cases b <;> rfl

theorem flagBit_busy (s : State) : flagBit s.busy = if s.channel = .idle then 0#1 else 1#1 := by
  rw [flagBit_eq_ite]
  simp [State.busy, ite_not]

/-- Settles O37: each field is reached past the fields below it. -/
theorem statusViewFields : Obligations.StatusViewFields := by
  intro s
  rw [← flagBit_busy, ← flagBit_eq_ite]
  unfold statusWord
  refine ⟨?_, ?_, ?_, ?_, ?_, ?_, ?_, ?_⟩
  all_goals repeat rw [BitVec.extractLsb'_append_eq_of_le (by decide)]
  case refine_8 => rfl
  all_goals exact BitVec.extractLsb'_append_eq_right

theorem stateView_fields (v : SipState) :
    (stateView v).extractLsb' 0 64 = v.v0 ∧ (stateView v).extractLsb' 64 64 = v.v1 ∧
    (stateView v).extractLsb' 128 64 = v.v2 ∧ (stateView v).extractLsb' 192 64 = v.v3 := by
  unfold stateView
  refine ⟨?_, ?_, ?_, ?_⟩
  all_goals repeat rw [BitVec.extractLsb'_append_eq_of_le (by decide)]
  case refine_4 => exact BitVec.extractLsb'_eq_self
  all_goals exact BitVec.extractLsb'_append_eq_right

theorem cfgView_fields (s : State) : (cfgView s).extractLsb' 0 8 = s.cfgC ∧ (cfgView s).extractLsb' 8 8 = s.cfgD :=
  ⟨BitVec.extractLsb'_append_eq_right, BitVec.extractLsb'_append_eq_left⟩

/-- With no command in execution the observation ports are the views of the registers (R208). -/
theorem observe_of_not_executing {s : State} (h : ∀ c, s.channel ≠ .executing c) (cycle : Nat) :
    (observe cycle s).stateO = stateView s.v ∧ (observe cycle s).statusO = statusWord s ∧
    (observe cycle s).cfgO = cfgView s ∧ (observe cycle s).bufO = s.buf ∧ (observe cycle s).resultO = s.result := by
  unfold observe
  cases hc : s.channel with
  | executing c => exact absurd hc (h c)
  | idle | responding => exact ⟨rfl, rfl, rfl, rfl, rfl⟩

/-- Settles O38. -/
theorem registerViewFields : Obligations.RegisterViewFields := by
  refine ⟨⟨rfl, rfl, rfl, rfl⟩, fun cycle s h => ?_⟩
  obtain ⟨hstate, -, hcfg, hbuf, hresult⟩ := observe_of_not_executing h cycle
  obtain ⟨h0, h1, h2, h3⟩ := stateView_fields s.v
  obtain ⟨hc, hd⟩ := cfgView_fields s
  rw [hstate, hcfg]
  exact ⟨h0, h1, h2, h3, hc, hd, hbuf, hresult⟩

/-- Settles O40. -/
theorem resetValues : Obligations.ResetValues := by
  unfold Obligations.ResetValues
  decide

end Sys2Proof.Machine
end

section
/-!
Execute reads the architectural registers only (R61, R80): states with the same registers get the same registers and the same
response, whatever the interface and the host hold.
-/

namespace Sys2Proof.Machine

/-- The registers of `s` with the interface and the host of `i`. -/
def State.withInterfaceOf (s i : State) : State :=
  { s with channel := i.channel, rspErr := i.rspErr, rspData := i.rspData
           waiting := i.waiting, inputs := i.inputs, draws := i.draws }

/-- The registers and the response of `s` with the host of `i`. -/
def State.withHostOf (s i : State) : State :=
  { s with waiting := i.waiting, inputs := i.inputs, draws := i.draws }

/-- A state with the registers of `s` is `s` but for its own interface and host. -/
theorem withInterfaceOf_of_arch_eq {s i : State} (h : i.arch = s.arch) : s.withInterfaceOf i = i := by
  cases s; cases i
  simp only [State.arch, Arch.mk.injEq] at h
  simp [State.withInterfaceOf, h]

theorem packByte_withInterfaceOf (s i : State) (b : Byte) :
    packByte (s.withInterfaceOf i) b = (packByte s b).withInterfaceOf i := by
  by_cases h : s.bufN = 7#3
  · rw [packByte_of_eq_seven h, packByte_of_eq_seven (s := s.withInterfaceOf i) h]; rfl
  · rw [packByte_of_ne_seven h, packByte_of_ne_seven (s := s.withInterfaceOf i) h]; rfl

theorem packBytes_withInterfaceOf (s i : State) (bs : List Byte) :
    packBytes (s.withInterfaceOf i) bs = (packBytes s bs).withInterfaceOf i := by
  induction bs generalizing s with
  | nil => rfl
  | cons b bs ih => rw [packBytes_cons, packBytes_cons, packByte_withInterfaceOf, ih]

theorem absorbBytes_withInterfaceOf (s i : State) (bs : List Byte) :
    (s.withInterfaceOf i).absorbBytes bs = (s.absorbBytes bs).withInterfaceOf i := by
  rw [State.absorbBytes, packBytes_withInterfaceOf]; rfl

/-- A response covers what the interface held before it. -/
theorem succeed_withInterfaceOf (s i : State) (x : Word) :
    (s.withInterfaceOf i).succeed x = (s.succeed x).withHostOf i := rfl

theorem raise_withInterfaceOf (s i : State) (e : SipError) :
    (s.withInterfaceOf i).raise e = (s.raise e).withHostOf i := rfl

/-- Every meaning makes the same checks and the same changes under another interface (R80). -/
theorem exec_withInterfaceOf {a : Instr} {s t : State} (i : State) (h : exec a s = .next t) :
    exec a (s.withInterfaceOf i) = .next (t.withHostOf i) := by
  cases a with
  | init c d klen key =>
    simp only [exec, execInit] at h ⊢
    split_ifs at h ⊢ <;> cases h <;> rfl
  | absorbw data =>
    simp only [exec, execAbsorbw] at h
    split_ifs at h with ho hn <;> cases h
    · exact if_pos ho
    · exact (if_neg ho).trans (if_pos hn)
    · exact (if_neg ho).trans (if_neg hn)
  | absorbb n data =>
    simp only [exec, execAbsorbb] at h
    split_ifs at h with hn ho <;> cases h
    · exact if_pos hn
    · exact (if_neg hn).trans (if_pos ho)
    · refine (if_neg hn).trans ((if_neg ho).trans ?_)
      rw [absorbBytes_withInterfaceOf, succeed_withInterfaceOf]
  | final data =>
    simp only [exec, execFinal] at h
    split_ifs at h with ho <;> cases h
    · exact if_pos ho
    · exact if_neg ho
  | finalraw data =>
    simp only [exec, execFinalraw] at h
    split_ifs at h with ho hn <;> cases h
    · exact if_pos ho
    · exact (if_neg ho).trans (if_pos hn)
    · exact (if_neg ho).trans (if_neg hn)

/-- From a state with the registers of `r`, Execute does what it does from `r`, and leaves that state's own host alone (R80). -/
theorem execute_of_arch_eq {c : Command} {r s t : State} (ha : s.arch = r.arch) (h : execute c r = .next t) :
    execute c s = .next (t.withHostOf s) := by
  have hs : r.withInterfaceOf s = s := withInterfaceOf_of_arch_eq ha
  cases hd : decode c with
  | legal a =>
    rw [execute_legal hd] at h ⊢
    have hx := exec_withInterfaceOf s h
    rwa [hs] at hx
  | illegal cause =>
    rw [execute_illegal hd] at h ⊢
    cases h
    rw [← raise_withInterfaceOf, hs]

/-- Every command ends with its response waiting (R80, R207). -/
theorem execute_channel {c : Command} {s t : State} (h : execute c s = .next t) : t.channel = .responding := by
  obtain ⟨e, rfl⟩ | ⟨-, -, -, rfl⟩ | ⟨-, -, -, rfl⟩ | ⟨-, -, rfl⟩ | ⟨-, -, rfl⟩ | ⟨-, -, -, rfl⟩ :=
    execute_cases_op h
  all_goals rfl

end Sys2Proof.Machine
end

section
/-!
The step as an equation for each state of the channel, the three edges of a handshake (R205 to R207), and one command through
them (R60).
-/

namespace Sys2Proof.Machine

theorem step_of_idle {s : State} (hr : s.ports.rstN = true) (hc : s.channel = .idle) :
    step s = .next (s.advance.idleEdge s.ports) := by
  simp [step, hr, hc]

theorem step_of_executing {c : Command} {s : State} (hr : s.ports.rstN = true) (hc : s.channel = .executing c) :
    step s = execute c (s.advance.noteOffer s.ports) := by
  simp [step, hr, hc]

theorem step_of_responding {s : State} (hr : s.ports.rstN = true) (hc : s.channel = .responding) :
    step s = .next (s.advance.responseEdge s.ports) := by
  simp [step, hr, hc]

/-- An idle core to which nothing has been offered and whose host drives `ps` next. -/
structure ReadyFor (ps : List PortsIn) (s : State) : Prop where
  channel : s.channel = .idle
  waiting : s.waiting = []
  inputs : s.inputs = ps

theorem ports_of_inputs_cons {s : State} {p : PortsIn} {ps : List PortsIn} (h : s.inputs = p :: ps) : s.ports = p := by
  rw [State.ports, h, List.headD_cons]

theorem noteOffer_of_not_valid {p : PortsIn} (h : p.cmdValid = false) (s : State) : s.noteOffer p = s := by
  simp [State.noteOffer, h]

/-- With nothing offered before, the command offered is accepted (R205). -/
theorem idleEdge_offer {s : State} (h : s.waiting = []) (c : Command) :
    s.idleEdge (PortsIn.offer c) = { s with channel := .executing c, waiting := [], draws := s.draws + 1 } := by
  have ho : s.offers (PortsIn.offer c) = [c] := by simp [State.offers, h, PortsIn.offer]
  have ha : s.accepted (PortsIn.offer c) = some c := by simp only [State.accepted, ho]; simp [PortsIn.offer]
  simp only [State.idleEdge, ho, ha]

/-- A ready core accepts the command offered, and no register changes (R205, R206). -/
theorem step_offer {c : Command} {ps : List PortsIn} {s : State} (h : ReadyFor (PortsIn.offer c :: ps) s) :
    step s = .next { s with channel := .executing c, waiting := [], inputs := ps, draws := s.draws + 1 } := by
  have hp : s.ports = PortsIn.offer c := ports_of_inputs_cons h.inputs
  rw [step_of_idle (hp ▸ rfl) h.channel, hp, idleEdge_offer (s := s.advance) h.waiting, State.advance, h.inputs, List.tail_cons]

/-- On quiet ports the command in execution has its effect (R80, R207). -/
theorem step_executing_quiet {c : Command} {ps : List PortsIn} {s : State} (hc : s.channel = .executing c)
    (hi : s.inputs = PortsIn.quiet :: ps) : step s = execute c s.advance := by
  have hp : s.ports = PortsIn.quiet := ports_of_inputs_cons hi
  rw [step_of_executing (hp ▸ rfl) hc, hp, noteOffer_of_not_valid rfl]

/-- A transfer makes the channel idle and forgets no offer (R205, R207). -/
theorem responseEdge_of_ready {p : PortsIn} (h : p.rspReady = true) (s : State) :
    (s.responseEdge p).channel = .idle ∧ (s.responseEdge p).waiting = (s.noteOffer p).waiting := by
  simp [State.responseEdge, h]

/-- A waiting response is taken: no register changes, and the core is ready for the host's next samples (R207). -/
theorem step_take {ps : List PortsIn} {s : State} (hc : s.channel = .responding) (hw : s.waiting = [])
    (hi : s.inputs = PortsIn.take :: ps) : ∃ t, step s = .next t ∧ t.arch = s.arch ∧ ReadyFor ps t := by
  have hp : s.ports = PortsIn.take := ports_of_inputs_cons hi
  obtain ⟨hidle, hwait⟩ := responseEdge_of_ready (p := PortsIn.take) rfl s.advance
  obtain ⟨harch, hinputs⟩ := responseEdge_frame PortsIn.take s.advance
  rw [noteOffer_of_not_valid rfl] at hwait
  rw [step_of_responding (hp ▸ rfl) hc, hp]
  exact ⟨_, rfl, harch, hidle, hwait.trans hw, hinputs.trans (congrArg List.tail hi)⟩

/-- One command through the handshake from any state with the registers of `r`: it is answered as Execute answers it from `r`,
and the core is ready again (R60). -/
theorem handshake_answers {c : Command} {ps : List PortsIn} {r s : State} (ha : s.arch = r.arch)
    (h : ReadyFor (handshake c ++ ps) s) :
    ∃ t s1 s2 s3, execute c r = .next t ∧
      step s = .next s1 ∧ s1.channel = .executing c ∧ s1.arch = s.arch ∧
      step s1 = .next s2 ∧ s2.arch = t.arch ∧ s2.responds t.rspErr t.rspData ∧
      step s2 = .next s3 ∧ s3.arch = t.arch ∧ ReadyFor ps s3 := by
  obtain ⟨t, ht⟩ := execute_answers c r
  have hstep1 := step_offer h
  set s1 : State :=
    { s with channel := .executing c, waiting := [], inputs := PortsIn.quiet :: PortsIn.take :: ps, draws := s.draws + 1 }
  have hstep2 : step s1 = .next (t.withHostOf s1.advance) :=
    (step_executing_quiet rfl rfl).trans (execute_of_arch_eq ha ht)
  have hresp := execute_channel ht
  obtain ⟨s3, hstep3, ha3, hready⟩ := step_take (s := t.withHostOf s1.advance) hresp rfl rfl
  exact ⟨t, s1, _, s3, ht, hstep1, rfl, rfl, hstep2, rfl, ⟨hresp, rfl, rfl⟩, hstep3, ha3, hready⟩

/-- Settles O49: the three edges one after another, the command taking effect from the registers it was accepted with. -/
theorem handshakeIsOneExecute : Obligations.HandshakeIsOneExecute := by
  intro c rest s hc hw hi
  obtain ⟨t, s1, s2, s3, ht, hstep1, hc1, ha1, hstep2, ha2, hresp, hstep3, ha3, hready⟩ :=
    handshake_answers (r := s) rfl ⟨hc, hw, hi⟩
  exact ⟨t, s1, s2, s3, ht, hstep1, hc1, ha1, hstep2, ha2, hresp, hstep3, ha3, hready.channel, hready.waiting, hready.inputs⟩

end Sys2Proof.Machine
end

section
/-!
Runs of commands through the handshake against the left fold of Execute (R61), by induction on the commands.
-/

namespace Sys2Proof.Machine

theorem runCommands_cons {c : Command} {s t : State} (h : execute c s = .next t) (cs : List Command) :
    runCommands (c :: cs) s = runCommands cs t := by
  simp only [runCommands, h]

theorem responses_cons {c : Command} {s t : State} (h : execute c s = .next t) (cs : List Command) :
    responses (c :: cs) s = (t.rspErr, t.rspData) :: responses cs t := by
  simp only [responses, h]

theorem run_succ {s t : State} (h : step s = .next t) (k : Nat) :
    Host.Core.run Sys2Proof.core (k + 1) s = Host.Core.run Sys2Proof.core k t := by
  have h' : Sys2Proof.core.step s = .next t := h
  simp only [Host.Core.run, h']

theorem script_cons (c : Command) (cs : List Command) (rest : List PortsIn) :
    script (c :: cs) ++ rest = handshake c ++ (script cs ++ rest) := by
  rw [script, List.flatMap_cons, List.append_assoc, script]

/-- After three steps for each command the core has the registers of the fold, and is ready again. -/
theorem run_script {rest : List PortsIn} {cs : List Command} {r s : State} (ha : s.arch = r.arch)
    (h : ReadyFor (script cs ++ rest) s) :
    ∃ t u : State, runCommands cs r = .next t ∧ Host.Core.run Sys2Proof.core (3 * cs.length) s = .next u ∧
      u.arch = t.arch ∧ ReadyFor rest u := by
  induction cs generalizing r s with
  | nil => exact ⟨r, s, rfl, rfl, ha, h⟩
  | cons c cs ih =>
    rw [script_cons] at h
    obtain ⟨t, s1, s2, s3, ht, hstep1, -, -, hstep2, -, -, hstep3, ha3, hready⟩ := handshake_answers ha h
    rw [runCommands_cons ht, List.length_cons, Nat.mul_succ, run_succ hstep1, run_succ hstep2, run_succ hstep3]
    exact ih ha3 hready

/-- Two steps into its handshake, each command has the registers and the response the fold has for it. -/
theorem run_script_response {rest : List PortsIn} {cs : List Command} {k : Nat} {r s : State} (hk : k < cs.length)
    (ha : s.arch = r.arch) (h : ReadyFor (script cs ++ rest) s) :
    ∃ t w : State, runCommands (cs.take (k + 1)) r = .next t ∧
      Host.Core.run Sys2Proof.core (3 * k + 2) s = .next w ∧
      w.arch = t.arch ∧ w.channel = .responding ∧ (responses cs r)[k]? = some (w.rspErr, w.rspData) := by
  induction cs generalizing k r s with
  | nil => exact absurd hk (Nat.not_lt_zero k)
  | cons c cs ih =>
    rw [script_cons] at h
    obtain ⟨t, s1, s2, s3, ht, hstep1, -, -, hstep2, ha2, ⟨hc2, he2, hd2⟩, hstep3, ha3, hready⟩ := handshake_answers ha h
    rw [List.take_succ_cons, runCommands_cons ht, responses_cons ht]
    cases k with
    | zero =>
      refine ⟨t, s2, rfl, ?_, ha2, hc2, ?_⟩
      · rw [run_succ hstep1, run_succ hstep2]; rfl
      · rw [List.getElem?_cons_zero, he2, hd2]
    | succ k =>
      rw [show 3 * (k + 1) + 2 = 3 * k + 2 + 1 + 1 + 1 from rfl, run_succ hstep1, run_succ hstep2, run_succ hstep3,
        List.getElem?_cons_succ]
      exact ih (Nat.lt_of_succ_lt_succ hk) ha3 hready

/-- Settles O50: the core's registers follow the fold's, handshake by handshake. -/
theorem scriptIsTheFoldOfExecute : Obligations.ScriptIsTheFoldOfExecute := by
  intro cs rest s hc hw hi
  have h : ReadyFor (script cs ++ rest) s := ⟨hc, hw, hi⟩
  refine ⟨?_, fun k hk => run_script_response hk rfl h⟩
  obtain ⟨t, u, ht, hu, ha, hready⟩ := run_script rfl h
  exact ⟨t, u, ht, hu, ha, hready.channel, hready.waiting, hready.inputs⟩

end Sys2Proof.Machine
end

section
/-!
The decoder as a condition on the fields of a command (R72, R74, R79): a command is decoded to an instruction exactly when it
carries it and its other fields are 0.
-/

namespace Sys2Proof

/-- The fields R72 marks "must be 0" are 0: RSV for every command, C and D for all but INIT, LEN for all but INIT and ABSORBB. -/
structure Command.FixedFieldsZero (c : Command) : Prop where
  rsv : c.rsv = 0#4
  rounds : c.op ≠ 1#4 → c.c = 0#8 ∧ c.d = 0#8
  len : c.op ≠ 1#4 → c.op ≠ 3#4 → c.len = 0#8

theorem Command.fixedFieldsZero_of_noOperands {c : Command} (hr : c.rsv = 0#4) (h : c.noOperands = true) :
    c.FixedFieldsZero := by
  obtain ⟨hc, hd, hl⟩ := c.noOperands_iff.mp h
  exact ⟨hr, fun _ => ⟨hc, hd⟩, fun _ _ => hl⟩

theorem fixedFieldsZero_of_decode {c : Command} {i : Instr} (h : decode c = .legal i) : c.FixedFieldsZero := by
  unfold decode at h
  split_ifs at h with hr h1 h2 ho h3 hn hl h4 ho h5 ho
  all_goals rw [not_not] at hr
  · exact ⟨hr, fun h => absurd h1 h, fun h => absurd h1 h⟩
  · exact Command.fixedFieldsZero_of_noOperands hr ho
  · rw [Bool.not_eq_true', Bool.not_eq_false] at hn
    exact ⟨hr, fun _ => c.noRounds_iff.mp hn, fun _ h => absurd h3 h⟩
  · exact Command.fixedFieldsZero_of_noOperands hr ho
  · exact Command.fixedFieldsZero_of_noOperands hr ho

/-- A command other than INIT and ABSORBB with its fixed fields 0 has no operands in its word. -/
theorem Command.FixedFieldsZero.noOperands {c : Command} (h : c.FixedFieldsZero) (h1 : c.op ≠ 1#4) (h3 : c.op ≠ 3#4) :
    c.noOperands = true := by
  obtain ⟨hc, hd⟩ := h.rounds h1
  exact c.noOperands_iff.mpr ⟨hc, hd, h.len h1 h3⟩

theorem decode_of_carries {c : Command} {i : Instr} (hc : c.Carries i) (hf : c.FixedFieldsZero) : decode c = .legal i := by
  have hr := hf.rsv
  cases i with
  | init cr dr klen key =>
    obtain ⟨hop, rfl, rfl, rfl, rfl⟩ := hc
    simp [decode, hr, hop]
  | absorbw data =>
    obtain ⟨hop, rfl⟩ := hc
    simp [decode, hr, hop, hf.noOperands (by simp [hop]) (by simp [hop])]
  | absorbb n data =>
    obtain ⟨hop, rfl, hn, rfl⟩ := hc
    have hz : c.noRounds = true := c.noRounds_iff.mpr (hf.rounds (by simp [hop]))
    simp [decode, hr, hop, hz, hn]
  | final data =>
    obtain ⟨hop, rfl⟩ := hc
    simp [decode, hr, hop, hf.noOperands (by simp [hop]) (by simp [hop])]
  | finalraw data =>
    obtain ⟨hop, rfl⟩ := hc
    simp [decode, hr, hop, hf.noOperands (by simp [hop]) (by simp [hop])]

theorem decode_eq_legal_iff {c : Command} {i : Instr} : decode c = .legal i ↔ c.Carries i ∧ c.FixedFieldsZero :=
  ⟨fun h => ⟨carries_of_decode h, fixedFieldsZero_of_decode h⟩, fun ⟨hc, hf⟩ => decode_of_carries hc hf⟩

theorem exists_illegal_of_not_legal {c : Command} (h : ∀ i, decode c ≠ .legal i) : ∃ cause, decode c = .illegal cause := by
  cases hd : decode c with
  | legal i => exact absurd hd (h i)
  | illegal cause => exact ⟨cause, rfl⟩

/-- Two commands that carry the same instruction, with nothing else in their words, are the same. -/
theorem Command.eq_of_carries {c c' : Command} {i : Instr} (hc : c.Carries i) (hc' : c'.Carries i)
    (hf : c.FixedFieldsZero) (hf' : c'.FixedFieldsZero) : c = c' := by
  suffices h : c.word = c'.word ∧ c.data = c'.data by
    cases c; cases c'; exact congrArg₂ Command.mk h.1 h.2
  have hr : c.rsv = c'.rsv := hf.rsv.trans hf'.rsv.symm
  -- The fields an instruction other than INIT and ABSORBB leaves to `FixedFieldsZero`.
  have hz : c.op = c'.op → c.op ≠ 1#4 → c.op ≠ 3#4 → c.word = c'.word := fun hop h1 h3 => by
    obtain ⟨hcc, hcd, hcl⟩ := c.noOperands_iff.mp (hf.noOperands h1 h3)
    obtain ⟨hcc', hcd', hcl'⟩ := c'.noOperands_iff.mp (hf'.noOperands (hop ▸ h1) (hop ▸ h3))
    exact word_ext hop hr (hcc.trans hcc'.symm) (hcd.trans hcd'.symm) (hcl.trans hcl'.symm)
  cases i with
  | init cr dr klen key =>
    obtain ⟨hop, hcc, hcd, hcl, hdata⟩ := hc
    obtain ⟨hop', hcc', hcd', hcl', hdata'⟩ := hc'
    exact ⟨word_ext (hop.trans hop'.symm) hr (hcc.trans hcc'.symm) (hcd.trans hcd'.symm) (hcl.trans hcl'.symm),
      hdata.trans hdata'.symm⟩
  | absorbb n data =>
    obtain ⟨hop, hcl, -, hdata⟩ := hc
    obtain ⟨hop', hcl', -, hdata'⟩ := hc'
    obtain ⟨hcc, hcd⟩ := hf.rounds (by simp [hop])
    obtain ⟨hcc', hcd'⟩ := hf'.rounds (by simp [hop'])
    exact ⟨word_ext (hop.trans hop'.symm) hr (hcc.trans hcc'.symm) (hcd.trans hcd'.symm) (hcl.trans hcl'.symm),
      hdata.trans hdata'.symm⟩
  | absorbw data | final data | finalraw data =>
    obtain ⟨hop, hdata⟩ := hc
    obtain ⟨hop', hdata'⟩ := hc'
    exact ⟨hz (hop.trans hop'.symm) (by simp [hop]) (by simp [hop]), hdata.trans hdata'.symm⟩

end Sys2Proof
end

section
/-!
Decoding and encoding are inverse to each other (R70, R72, R79).
-/

namespace Sys2Proof

theorem fixedFieldsZero_encode (i : Instr) : (encode i).FixedFieldsZero := by
  cases i with
  | init c d klen key =>
    obtain ⟨hop, hr, -⟩ := encode_init_fields c d klen key
    exact ⟨hr, fun h => absurd hop h, fun h => absurd hop h⟩
  | absorbb n data =>
    obtain ⟨hop, hr, hz, -⟩ := encode_absorbb_fields n data
    exact ⟨hr, fun _ => (Command.noRounds_iff _).mp hz, fun _ h => absurd hop h⟩
  | absorbw | final | finalraw =>
    exact Command.fixedFieldsZero_of_noOperands (by simp [Command.rsv, encode, encodeWord])
      (by simp [Command.noOperands, encode, encodeWord])

/-- The encoder writes the instruction into the word; the one operand a word may carry and the decoder refuse is the count of
an ABSORBB (R72). -/
theorem encode_carries_iff (i : Instr) : (encode i).Carries i ↔ i.wellFormed = true := by
  cases i with
  | init c d klen key =>
    obtain ⟨hop, -, hc, hd, hl⟩ := encode_init_fields c d klen key
    exact iff_of_true ⟨hop, hc, hd, hl, rfl⟩ rfl
  | absorbb n data =>
    obtain ⟨hop, -, -, hl⟩ := encode_absorbb_fields n data
    exact ⟨fun ⟨_, _, hn, _⟩ => decide_eq_true hn, fun hw => ⟨hop, hl, of_decide_eq_true hw, rfl⟩⟩
  | absorbw | final | finalraw => exact iff_of_true ⟨rfl, rfl⟩ rfl

/-- Settles O2: the encoder writes 0 into every other field, so what is decoded turns on what the word carries. -/
theorem decodeOfEncode : Obligations.DecodeOfEncode := fun i => by
  rw [decode_eq_legal_iff, encode_carries_iff, and_iff_left (fixedFieldsZero_encode i)]

theorem decode_encode {i : Instr} (h : i.wellFormed = true) : decode (encode i) = .legal i := (decodeOfEncode i).mpr h

/-- Settles O3: the command and its encoding carry the same instruction, and nothing else. -/
theorem encodeOfDecode : Obligations.EncodeOfDecode := fun c i h => by
  have hw := wellFormed_of_decode h
  obtain ⟨hc, hf⟩ := decode_eq_legal_iff.mp h
  exact ⟨Command.eq_of_carries ((encode_carries_iff i).mpr hw) hc (fixedFieldsZero_encode i) hf, hw⟩

/-- Settles O1: each word is the one the encoder writes for its command. -/
theorem decodeReadsSpecWords : Obligations.DecodeReadsSpecWords := fun data =>
  ⟨decode_encode (i := .init 2#8 4#8 16#8 data) rfl, decode_encode (i := .absorbw data) rfl,
    decode_encode (i := .absorbb 8#8 data) rfl, decode_encode (i := .final data) rfl,
    decode_encode (i := .finalraw data) rfl⟩

end Sys2Proof
end

section
/-!
The match and mask pairs of the opcode map (R74), field by field.
-/

namespace Sys2Proof

/-- Masking a command word masks its fields. -/
theorem Command.word_and_eq_iff (c : Command) (ml md mr l d r : Byte) (mv mo v o : BitVec 4) :
    c.word &&& (ml ++ md ++ mr ++ mv ++ mo) = l ++ d ++ r ++ v ++ o ↔
      c.len &&& ml = l ∧ c.d &&& md = d ∧ c.c &&& mr = r ∧ c.rsv &&& mv = v ∧ c.op &&& mo = o := by
  rw [c.word_eq_fields]
  change (c.len ++ c.d ++ c.c ++ c.rsv ++ c.op : BitVec (8 + 8 + 8 + 4 + 4)) &&& _ = _ ↔ _
  simp only [BitVec.and_append, append_inj, and_assoc]

/-- The word of an INIT under its mask. -/
theorem Command.word_matches_init_iff (c : Command) :
    c.word &&& 0x000000FF#32 = 0x00000001#32 ↔ c.rsv = 0#4 ∧ c.op = 1#4 := by
  have hid : ∀ x : BitVec 4, x &&& 15#4 = x := fun _ => BitVec.and_allOnes
  refine (c.word_and_eq_iff 0#8 0#8 0#8 0#8 0#8 0#8 15#4 15#4 0#4 1#4).trans ?_
  simp [hid]

/-- The word of an ABSORBB under its mask. -/
theorem Command.word_matches_absorbb_iff (c : Command) :
    c.word &&& 0x00FFFFFF#32 = 0x00000003#32 ↔ c.d = 0#8 ∧ c.c = 0#8 ∧ c.rsv = 0#4 ∧ c.op = 3#4 := by
  have hid : ∀ x : BitVec 4, x &&& 15#4 = x := fun _ => BitVec.and_allOnes
  have hid8 : ∀ x : Byte, x &&& 255#8 = x := fun _ => BitVec.and_allOnes
  refine (c.word_and_eq_iff 0#8 255#8 255#8 0#8 0#8 0#8 15#4 15#4 0#4 3#4).trans ?_
  simp [hid, hid8]

/-- A command is decoded to an instruction without operand fields exactly when its whole word is the encoder's. -/
theorem exists_decode_iff_word_eq {mk : Data → Instr} {w : CmdWord} (hwf : ∀ data, (mk data).wellFormed = true)
    (henc : ∀ data, encode (mk data) = ⟨w, data⟩) (c : Command) :
    (∃ data, decode c = .legal (mk data)) ↔ c.word &&& 0xFFFFFFFF#32 = w := by
  have hid : c.word &&& 0xFFFFFFFF#32 = c.word := BitVec.and_allOnes
  rw [hid]
  constructor
  · rintro ⟨data, h⟩
    rw [← (encodeOfDecode c _ h).1, henc]
  · rintro rfl
    have h := decode_encode (hwf c.data)
    rw [henc] at h
    exact ⟨c.data, h⟩

theorem exists_decode_init_iff (c : Command) :
    (∃ cr dr klen key, decode c = .legal (.init cr dr klen key)) ↔ c.rsv = 0#4 ∧ c.op = 1#4 := by
  constructor
  · rintro ⟨cr, dr, klen, key, h⟩
    obtain ⟨⟨hop, -⟩, hf⟩ := decode_eq_legal_iff.mp h
    exact ⟨hf.rsv, hop⟩
  · rintro ⟨hr, hop⟩
    exact ⟨_, _, _, _, decode_of_carries ⟨hop, rfl, rfl, rfl, rfl⟩ ⟨hr, fun h => absurd hop h, fun h => absurd hop h⟩⟩

theorem exists_decode_absorbb_iff (c : Command) :
    (∃ n data, decode c = .legal (.absorbb n data)) ↔
      (c.d = 0#8 ∧ c.c = 0#8 ∧ c.rsv = 0#4 ∧ c.op = 3#4) ∧ c.len ≤ 8#8 := by
  constructor
  · rintro ⟨n, data, h⟩
    obtain ⟨⟨hop, rfl, hn, -⟩, hf⟩ := decode_eq_legal_iff.mp h
    obtain ⟨hc, hd⟩ := hf.rounds (by simp [hop])
    exact ⟨⟨hd, hc, hf.rsv, hop⟩, hn⟩
  · rintro ⟨⟨hd, hc, hr, hop⟩, hn⟩
    exact ⟨_, _, decode_of_carries ⟨hop, rfl, hn, rfl⟩ ⟨hr, fun _ => ⟨hc, hd⟩, fun _ h => absurd hop h⟩⟩

/-- Settles O4. -/
theorem decodeFollowsMatchAndMask : Obligations.DecodeFollowsMatchAndMask := fun c =>
  ⟨(exists_decode_init_iff c).trans c.word_matches_init_iff.symm,
    exists_decode_iff_word_eq (fun _ => rfl) (fun _ => rfl) c,
    (exists_decode_absorbb_iff c).trans (and_congr_left' c.word_matches_absorbb_iff.symm),
    exists_decode_iff_word_eq (fun _ => rfl) (fun _ => rfl) c,
    exists_decode_iff_word_eq (fun _ => rfl) (fun _ => rfl) c⟩

end Sys2Proof
end

section
/-!
Illegal command words (R75, R76, R177), and the bits of the data operand a command does not use (R71, R91).
-/

namespace Sys2Proof.Machine

theorem raise_eq_failedWith (s : State) (e : SipError) : s.raise e = s.failedWith e.code := rfl

/-- A word that no instruction has is illegal and raises IllegalCommand (R177). -/
theorem illegal_of_not_legal {c : Command} (h : ∀ i, decode c ≠ .legal i) (s : State) :
    (∃ cause, decode c = .illegal cause) ∧ execute c s = .next (s.failedWith 4#4) := by
  obtain ⟨cause, hd⟩ := exists_illegal_of_not_legal h
  exact ⟨⟨cause, hd⟩, execute_illegal hd s⟩

/-- The opcode of a legal command is one of the five defined ones (R74). -/
theorem op_of_carries {c : Command} {i : Instr} (h : c.Carries i) : 1#4 ≤ c.op ∧ c.op ≤ 5#4 := by
  cases i with
  | init | absorbw | absorbb | final | finalraw =>
    obtain ⟨hop, -⟩ := h
    rw [hop]
    decide

theorem len_le_eight_of_carries {c : Command} {i : Instr} (h : c.Carries i) (hop : c.op = 3#4) : c.len ≤ 8#8 := by
  cases i with
  | absorbb n data =>
    obtain ⟨-, rfl, hn, -⟩ := h
    exact hn
  | init | absorbw | final | finalraw =>
    obtain ⟨ho, -⟩ := h
    simp [hop] at ho

/-- Settles O5: a legal command has a defined opcode. -/
theorem reservedOpcodesAreIllegal : Obligations.ReservedOpcodesAreIllegal := by
  intro c s hop
  refine illegal_of_not_legal (fun i hi => ?_) s
  obtain ⟨h1, h5⟩ := op_of_carries (carries_of_decode hi)
  bv_omega

/-- Settles O6: a legal command has its fixed fields 0, and the count of an ABSORBB is at most 8. -/
theorem nonzeroFixedFieldsAreIllegal : Obligations.NonzeroFixedFieldsAreIllegal := by
  intro c s _ _ hbad
  refine illegal_of_not_legal (fun i hi => ?_) s
  obtain ⟨hc, hf⟩ := decode_eq_legal_iff.mp hi
  obtain hr | ⟨h1, hz⟩ | ⟨h1, h3, hl⟩ | ⟨h3, hn⟩ := hbad
  · exact hr hf.rsv
  · obtain ⟨hc0, hd0⟩ := hf.rounds h1
    exact hz.elim (absurd hc0) (absurd hd0)
  · exact hl (hf.len h1 h3)
  · exact BitVec.not_lt.mpr (len_le_eight_of_carries hc h3) hn

/-- The decoder checks the command word alone: with another data operand the word is legal as well (R71). -/
theorem decode_legal_of_word {w : CmdWord} {data : Data} {i : Instr} (h : decode ⟨w, data⟩ = .legal i) (data' : Data) :
    ∃ i', decode ⟨w, data'⟩ = .legal i' := by
  obtain ⟨hc, hr, hz, hl⟩ := decode_eq_legal_iff.mp h
  have hf : Command.FixedFieldsZero ⟨w, data'⟩ := ⟨hr, hz, hl⟩
  cases i with
  | init cr dr klen key =>
    obtain ⟨hop, -⟩ := hc
    exact ⟨.init _ _ _ data', decode_of_carries ⟨hop, rfl, rfl, rfl, rfl⟩ hf⟩
  | absorbb n _ =>
    obtain ⟨hop, hn, h8, -⟩ := hc
    exact ⟨.absorbb n data', decode_of_carries ⟨hop, hn, h8, rfl⟩ hf⟩
  | absorbw _ =>
    obtain ⟨hop, -⟩ := hc
    exact ⟨.absorbw data', decode_of_carries ⟨hop, rfl⟩ hf⟩
  | final _ =>
    obtain ⟨hop, -⟩ := hc
    exact ⟨.final data', decode_of_carries ⟨hop, rfl⟩ hf⟩
  | finalraw _ =>
    obtain ⟨hop, -⟩ := hc
    exact ⟨.finalraw data', decode_of_carries ⟨hop, rfl⟩ hf⟩

theorem lanes_congr {data data' : Data} {n : Nat} (h : ∀ i, i < n → lane data i = lane data' i) :
    lanes data n = lanes data' n :=
  List.map_congr_left fun i hi => h i (List.mem_range.mp hi)

/-- Settles O7: each meaning reads the operand through its message word or its lanes, or not at all. -/
theorem unusedDataBitsAreIgnored : Obligations.UnusedDataBitsAreIgnored := by
  refine ⟨fun w data data' ⟨i, h⟩ => decode_legal_of_word h data', fun data data' s h => ?_, fun n data data' s h => ?_,
    fun _ _ _ => rfl, fun _ _ _ => rfl⟩
  · have hm : messageWord data = messageWord data' := h
    simp only [exec, execAbsorbw, hm]
  · simp only [exec, execAbsorbb, lanes_congr h]

end Sys2Proof.Machine
end

section
/-!
Each instruction as an equation where it succeeds (R121, R130, R133, R151).
-/

namespace Sys2Proof.Machine

theorem exec_init_of_valid {c d : Byte} (hc : c ≠ 0#8) (hd : d ≠ 0#8) (key : Data) (s : State) :
    exec (.init c d 16#8 key) s = .next ((s.startSession c d key).succeed 0#64) := by
  simp [exec, execInit, hc, hd]

theorem exec_absorbw_of_inSession {s : State} (hs : s.inSession) (hn : s.bufN = 0#3) (data : Data) :
    exec (.absorbw data) s = .next ((s.absorbWord (messageWord data)).succeed 0#64) := by
  simp [exec, execAbsorbw, (sessionOpen_iff s).mpr hs, hn]

theorem exec_absorbb_of_inSession {s : State} (hs : s.inSession) {n : Byte} (hn : n ≤ 8#8) (data : Data) :
    exec (.absorbb n data) s = .next ((s.absorbBytes (lanes data n.toNat)).succeed 0#64) := by
  simp [exec, execAbsorbb, (sessionOpen_iff s).mpr hs, BitVec.not_lt.mpr hn]

theorem exec_final_of_inSession {s : State} (hs : s.inSession) (data : Data) :
    exec (.final data) s = .next (s.padAndFinalize.succeed s.padAndFinalize.result) := by
  simp [exec, execFinal, (sessionOpen_iff s).mpr hs]

theorem rounds_eq_iterate (v : SipState) (k : Nat) : rounds v k = sipRound^[k] v := by
  induction k generalizing v with
  | zero => rfl
  | succ k ih => rw [rounds_succ, ih, Function.iterate_succ_apply]

/-- Absorbing the word 0 is `c` rounds and nothing else (R106). -/
theorem absorbCore_zero (v : SipState) (c : Byte) : absorbCore v 0#64 c = sipRound^[c.toNat] v := by
  simp only [absorbCore, xor64, BitVec.xor_zero, rounds_eq_iterate]

/-- Settles O19. -/
theorem absorbwOfZeroOnlyMixes : Obligations.AbsorbwOfZeroOnlyMixes := by
  intro data s hs hn hz
  have hm : messageWord data = 0#64 := hz
  refine ⟨_, exec_absorbw_of_inSession hs hn data, ?_⟩
  rw [State.succeed_v, State.absorbWord_v, hm, absorbCore_zero]

end Sys2Proof.Machine
end

section
/-!
Execute and the step are total, and a step with a command in execution is the meaning of the instruction it decodes to (R80).
-/

namespace Sys2Proof.Machine

theorem step_of_reset {s : State} (h : s.ports.rstN = false) : step s = .next s.advance.resetAction := if_pos h

theorem step_answers (s : State) : ∃ t, step s = .next t := by
  cases hr : s.ports.rstN with
  | false => exact ⟨_, step_of_reset hr⟩
  | true =>
    cases hc : s.channel with
    | idle => exact ⟨_, step_of_idle hr hc⟩
    | executing c => rw [step_of_executing hr hc]; exact execute_answers c _
    | responding => exact ⟨_, step_of_responding hr hc⟩

/-- Settles O35. -/
theorem executeIsTotal : Obligations.ExecuteIsTotal := by
  refine ⟨fun c i s h => execute_legal h s, fun c cause s h => execute_illegal h s, fun c s => ?_, step_answers⟩
  obtain ⟨t, ht⟩ := execute_answers c s
  exact ⟨t, ht, execute_channel ht⟩

/-- Settles O47. -/
theorem stepRunsTheDecodedInstruction : Obligations.StepRunsTheDecodedInstruction := by
  intro s c hc hr
  rw [step_of_executing hr hc]
  exact ⟨fun i hi => execute_legal hi _, fun cause hd => execute_illegal hd _⟩

theorem decode_of_decodeTableWord {nbits w : Nat} {i : Instr} (h : decodeTableWord nbits w = some i) :
    decode (Command.ofBits nbits w) = .legal i := by
  unfold decodeTableWord at h
  split at h
  · split at h
    next j hj => cases h; exact hj
    next => cases h
  · cases h

/-- Settles O48: the command is in execution and the sample put before the host's own is quiet. -/
theorem fetchWordRunsNext : Obligations.FetchWordRunsNext := by
  intro s nbits w i h
  rw [step_executing_quiet (s := s.withFetchWord nbits w) rfl rfl, execute_legal (decode_of_decodeTableWord h)]
  rfl

end Sys2Proof.Machine
end

section
/-!
A message as full chunks of eight bytes and leftover bytes (R135, R150). Every proof here is by the chunks of the message.
-/

namespace Sys2Proof.Machine

/-- Eight bytes in front of a message are its first chunk. -/
theorem chunks_append_of_length_eight {ch : List Byte} (h : ch.length = 8) (rest : List Byte) :
    fullChunks (ch ++ rest) = ch :: fullChunks rest ∧ tailBytes (ch ++ rest) = tailBytes rest := by
  match ch, h with
  | [_, _, _, _, _, _, _, _], _ => exact ⟨rfl, rfl⟩

/-- Fewer than eight bytes are no chunk, and all left over. -/
theorem chunks_of_length_lt {bs : List Byte} (h : bs.length < 8) : fullChunks bs = [] ∧ tailBytes bs = bs := by
  unfold fullChunks tailBytes
  split
  · simp only [List.length_cons] at h; omega
  · exact ⟨rfl, rfl⟩

/-- A message is short, or a chunk in front of a message. -/
theorem chunkInduction {P : List Byte → Prop} (short : ∀ bs : List Byte, bs.length < 8 → P bs)
    (chunk : ∀ ch rest : List Byte, ch.length = 8 → P rest → P (ch ++ rest)) (msg : List Byte) : P msg := by
  by_cases h : msg.length < 8
  · exact short msg h
  · have hd : P (msg.drop 8) := chunkInduction short chunk (msg.drop 8)
    have ht : (msg.take 8).length = 8 := by rw [List.length_take]; omega
    exact List.take_append_drop 8 msg ▸ chunk _ _ ht hd
termination_by msg.length
decreasing_by rw [List.length_drop]; omega

theorem fullChunks_of_length_eight {ch : List Byte} (h : ch.length = 8) : fullChunks ch = [ch] := by
  simpa [fullChunks] using (chunks_append_of_length_eight h []).1

theorem tailBytes_of_length_eight {ch : List Byte} (h : ch.length = 8) : tailBytes ch = [] := by
  simpa [tailBytes] using (chunks_append_of_length_eight h []).2

theorem length_tailBytes (msg : List Byte) : (tailBytes msg).length = msg.length % 8 := by
  induction msg using chunkInduction with
  | short bs h => rw [(chunks_of_length_lt h).2, Nat.mod_eq_of_lt h]
  | chunk ch rest h ih => rw [(chunks_append_of_length_eight h rest).2, ih, List.length_append, h, Nat.add_mod_left]

theorem length_of_mem_fullChunks (msg : List Byte) : ∀ ch ∈ fullChunks msg, ch.length = 8 := by
  induction msg using chunkInduction with
  | short bs h => simp [(chunks_of_length_lt h).1]
  | chunk ch rest h ih => simpa [(chunks_append_of_length_eight h rest).1, h] using ih

/-- Bytes after a message are chunked together with its leftover bytes. -/
theorem chunks_append (msg xs : List Byte) :
    fullChunks (msg ++ xs) = fullChunks msg ++ fullChunks (tailBytes msg ++ xs) ∧
    tailBytes (msg ++ xs) = tailBytes (tailBytes msg ++ xs) := by
  induction msg using chunkInduction with
  | short bs h =>
    obtain ⟨hc, ht⟩ := chunks_of_length_lt h
    rw [hc, ht]
    exact ⟨rfl, rfl⟩
  | chunk ch rest h ih =>
    obtain ⟨hc, ht⟩ := chunks_append_of_length_eight h rest
    obtain ⟨hca, hta⟩ := chunks_append_of_length_eight h (rest ++ xs)
    rw [List.append_assoc, hca, hta, hc, ht, ih.1, ih.2]
    exact ⟨rfl, rfl⟩

/-- Bytes that complete a block are one word more, and nothing is left over. -/
theorem words_append_of_block {msg xs : List Byte} (h : (tailBytes msg ++ xs).length = 8) :
    fullWords (msg ++ xs) = fullWords msg ++ [le 64 (tailBytes msg ++ xs)] ∧ tailBytes (msg ++ xs) = [] := by
  obtain ⟨hc, ht⟩ := chunks_append msg xs
  rw [fullWords, hc, ht, fullChunks_of_length_eight h, tailBytes_of_length_eight h, List.map_append]
  exact ⟨rfl, rfl⟩

/-- Bytes that leave a block short are left over. -/
theorem words_append_of_short {msg xs : List Byte} (h : (tailBytes msg ++ xs).length < 8) :
    fullWords (msg ++ xs) = fullWords msg ∧ tailBytes (msg ++ xs) = tailBytes msg ++ xs := by
  obtain ⟨hc, ht⟩ := chunks_append msg xs
  obtain ⟨hcs, hts⟩ := chunks_of_length_lt h
  rw [fullWords, hc, ht, hcs, hts, List.append_nil]
  exact ⟨rfl, rfl⟩

theorem absorbWords_append (c : Byte) (v : SipState) (ws ws' : List Word) :
    absorbWords c v (ws ++ ws') = absorbWords c (absorbWords c v ws) ws' := List.foldl_append

theorem absorbWords_singleton (c : Byte) (v : SipState) (m : Word) : absorbWords c v [m] = absorbCore v m c := rfl

end Sys2Proof.Machine
end

section
/-!
A session that has taken in a message (R25, R26, R106): the registers are its words absorbed in order, its leftover bytes and its
length. Packing a byte, absorbing a word at a block boundary and absorbing bytes extend the message.
-/

namespace Sys2Proof.Machine

/-- `s` has an open session with `c` and `d` rounds that started from the register file `v` and has taken in `msg`. -/
structure HasTakenIn (c d : Byte) (v : SipState) (msg : List Byte) (s : State) : Prop where
  inSession : s.inSession
  cfgC : s.cfgC = c
  cfgD : s.cfgD = d
  regs : s.v = absorbWords c v (fullWords msg)
  buf : s.buf = le 56 (tailBytes msg)
  bufN : s.bufN = BitVec.ofNat 3 msg.length
  lenLo : s.lenLo = BitVec.ofNat 8 msg.length

section
variable {c d : Byte} {v : SipState} {msg : List Byte} {s : State}

theorem HasTakenIn.toNat_bufN (h : HasTakenIn c d v msg s) : s.bufN.toNat = msg.length % 8 := by
  rw [h.bufN, BitVec.toNat_ofNat]

theorem HasTakenIn.length_tailBytes_eq (h : HasTakenIn c d v msg s) : (tailBytes msg).length = s.bufN.toNat :=
  (length_tailBytes msg).trans h.toNat_bufN.symm

/-- Counting one more byte is counting the longer message. -/
theorem ofNat_length_append_singleton (w : Nat) (msg : List Byte) (b : Byte) :
    BitVec.ofNat w (msg ++ [b]).length = BitVec.ofNat w msg.length + 1#w := by
  rw [List.length_append, BitVec.ofNat_add]; rfl

theorem HasTakenIn.packByte (h : HasTakenIn c d v msg s) (b : Byte) :
    HasTakenIn c d v (msg ++ [b]) (packByte s b) := by
  have hlen := h.length_tailBytes_eq
  have hword := packWord_eq_le (tailBytes msg) b s hlen h.buf
  by_cases h7 : s.bufN = 7#3
  · have h8 : (tailBytes msg ++ [b]).length = 8 := by rw [List.length_append, hlen, h7]; rfl
    obtain ⟨hw, ht⟩ := words_append_of_block h8
    rw [packByte_of_eq_seven h7]
    refine ⟨h.inSession, h.cfgC, h.cfgD, ?_, ?_, ?_, ?_⟩
    · rw [hw, absorbWords_append, absorbWords_singleton, ← h.regs, ← hword, ← h.cfgC]
    · rw [ht, le_nil]
    · rw [ofNat_length_append_singleton, ← h.bufN, h7]; rfl
    · rw [ofNat_length_append_singleton, ← h.lenLo]
  · have h8 : (tailBytes msg ++ [b]).length < 8 := by
      rw [List.length_append, hlen, List.length_singleton, ← toNat_add_one_of_ne_seven h7]
      exact (s.bufN + 1#3).isLt
    obtain ⟨hw, ht⟩ := words_append_of_short h8
    rw [packByte_of_ne_seven h7]
    refine ⟨h.inSession, h.cfgC, h.cfgD, ?_, ?_, ?_, ?_⟩
    · rw [hw, ← h.regs]
    · rw [ht, hword, setWidth_le_of_le (by decide)]
    · rw [ofNat_length_append_singleton, ← h.bufN]
    · rw [ofNat_length_append_singleton, ← h.lenLo]

theorem HasTakenIn.packBytes (h : HasTakenIn c d v msg s) (bs : List Byte) :
    HasTakenIn c d v (msg ++ bs) (packBytes s bs) := by
  induction bs generalizing msg s with
  | nil => rwa [List.append_nil, packBytes_nil]
  | cons b bs ih =>
    rw [packBytes_cons, List.append_cons]
    exact ih (h.packByte b)

/-- PHASE may go to Absorbing, and the end of a command changes nothing a session speaks of. -/
theorem HasTakenIn.absorbing_succeed (h : HasTakenIn c d v msg s) (x : Word) :
    HasTakenIn c d v msg (State.succeed x { s with phase := .absorbing }) :=
  ⟨.inr rfl, h.cfgC, h.cfgD, h.regs, h.buf, h.bufN, h.lenLo⟩

theorem HasTakenIn.absorbBytes (h : HasTakenIn c d v msg s) (bs : List Byte) :
    HasTakenIn c d v (msg ++ bs) ((s.absorbBytes bs).succeed 0#64) :=
  (h.packBytes bs).absorbing_succeed 0#64

/-- At a block boundary nothing is buffered. -/
theorem HasTakenIn.bufN_of_boundary (h : HasTakenIn c d v msg s) (hb : msg.length % 8 = 0) : s.bufN = 0#3 :=
  BitVec.eq_of_toNat_eq (h.toNat_bufN.trans hb)

theorem HasTakenIn.absorbWord (h : HasTakenIn c d v msg s) (hb : msg.length % 8 = 0) (m : Word) :
    HasTakenIn c d v (msg ++ serialise m) ((s.absorbWord m).succeed 0#64) := by
  have ht0 : tailBytes msg = [] := List.eq_nil_of_length_eq_zero ((length_tailBytes msg).trans hb)
  have h8 : (tailBytes msg ++ serialise m).length = 8 := by rw [ht0, List.nil_append, length_serialise]
  obtain ⟨hw, ht⟩ := words_append_of_block h8
  refine ⟨.inr rfl, h.cfgC, h.cfgD, ?_, ?_, ?_, ?_⟩
  · rw [hw, absorbWords_append, absorbWords_singleton, ht0, List.nil_append, le_serialise, ← h.regs, ← h.cfgC]
    rfl
  · rw [ht, ← ht0, ← h.buf]; rfl
  · rw [List.length_append, length_serialise, BitVec.ofNat_add, ← h.bufN]; simp
  · rw [List.length_append, length_serialise, BitVec.ofNat_add, ← h.lenLo]; rfl

end

/-- A successful INIT opens a session that has taken in nothing (R121). -/
theorem hasTakenIn_startSession (c d : Byte) (key : Data) (s : State) :
    HasTakenIn c d (keyedState (keyLow key) (keyHigh key)) [] ((s.startSession c d key).succeed 0#64) :=
  ⟨.inl rfl, rfl, rfl, rfl, rfl, rfl, rfl⟩

end Sys2Proof.Machine
end

section
/-!
The padded block and the output of FINAL (R150, R151).
-/

namespace Sys2Proof.Machine

theorem le_replicate_zero (w k : Nat) : le w (List.replicate k 0#8) = 0#w := by
  induction k with
  | zero => rfl
  | succ k ih => rw [List.replicate_succ, le_cons, ih]; simp

theorem le_append_replicate_zero (w : Nat) (p : List Byte) (k : Nat) : le w (p ++ List.replicate k 0#8) = le w p := by
  rw [le_append, le_replicate_zero]; simp

/-- PadWord is LE64 of the buffered bytes, zero bytes up to seven, and LEN_LO (R150). -/
theorem padWord_eq_le {p : List Byte} {s : State} (hp : p.length ≤ 7) (hb : s.buf = le 56 p) :
    padWord s = le 64 (p ++ List.replicate (7 - p.length) 0#8 ++ [s.lenLo]) := by
  have h7 : (p ++ List.replicate (7 - p.length) 0#8).length = 7 := by
    rw [List.length_append, List.length_replicate]; omega
  rw [padWord, hb, setWidth_le_of_length p (by omega), le_snoc, le_append_replicate_zero, h7]

theorem HasTakenIn.padWord_eq {c d : Byte} {v : SipState} {msg : List Byte} {s : State} (h : HasTakenIn c d v msg s) :
    padWord s = padTail (tailBytes msg) msg.length := by
  have hlt := s.bufN.isLt
  rw [← h.length_tailBytes_eq] at hlt
  rw [padWord_eq_le (Nat.le_of_lt_succ hlt) h.buf, h.lenLo, padTail]

/-- FINAL leaves the output of the message taken in, with its padded block, in RESULT. -/
theorem HasTakenIn.padAndFinalize_result {c d : Byte} {v : SipState} {msg : List Byte} {s : State}
    (h : HasTakenIn c d v msg s) :
    s.padAndFinalize.result = (finalizeCore (absorbWords c v (paddedWords msg)) d).2 := by
  rw [State.padAndFinalize_result, h.padWord_eq, h.cfgC, h.cfgD, h.regs, paddedWords, absorbWords_append,
    absorbWords_singleton, finalizeCore]

/-- The low half of an assembled key is LE64 of its first eight bytes (R52). -/
theorem keyLow_le (key : List Byte) : keyLow (le 128 key) = le 64 (key.take 8) := by
  apply BitVec.eq_of_getLsbD_eq
  intro i hi
  have h1 : i < 128 := by omega
  have h2 : i / 8 < 8 := by omega
  simp [-BitVec.getLsbD_eq_getElem, keyLow, BitVec.getLsbD_extractLsb', getLsbD_le, hi, h1, List.getElem?_take_of_lt h2]

/-- The high half is LE64 of the bytes after them (R52). -/
theorem keyHigh_le (key : List Byte) : keyHigh (le 128 key) = le 64 (key.drop 8) := by
  apply BitVec.eq_of_getLsbD_eq
  intro i hi
  have h1 : 64 + i < 128 := by omega
  have h2 : (64 + i) / 8 = 8 + i / 8 := by omega
  have h3 : (64 + i) % 8 = i % 8 := by omega
  simp [-BitVec.getLsbD_eq_getElem, keyHigh, BitVec.getLsbD_extractLsb', getLsbD_le, hi, h1, h2, h3]

end Sys2Proof.Machine
end

section
/-!
Runs of commands one after another (R61), and the assembled commands of message intake and finalization (R57, R90).
-/

namespace Sys2Proof.Machine

/-- A run of all of `cs` from `s` to `t` with the responses `rs`. -/
def Runs (cs : List Command) (s t : State) (rs : List (BitVec 4 × Word)) : Prop :=
  runCommands cs s = .next t ∧ responses cs s = rs

theorem Runs.nil (s : State) : Runs [] s s [] := ⟨rfl, rfl⟩

theorem Runs.cons {c : Command} {cs : List Command} {s t u : State} {rs : List (BitVec 4 × Word)}
    (h : execute c s = .next t) (hr : Runs cs t u rs) : Runs (c :: cs) s u ((t.rspErr, t.rspData) :: rs) := by
  obtain ⟨hrun, hresp⟩ := hr
  exact ⟨(runCommands_cons h cs).trans hrun, by rw [responses_cons h, hresp]⟩

theorem Runs.append {cs ds : List Command} {s t u : State} {rs qs : List (BitVec 4 × Word)}
    (h : Runs cs s t rs) (h' : Runs ds t u qs) : Runs (cs ++ ds) s u (rs ++ qs) := by
  induction cs generalizing s rs with
  | nil =>
    obtain ⟨hrun, rfl⟩ := h
    cases hrun
    exact h'
  | cons c cs ih =>
    obtain ⟨w, hw⟩ := execute_answers c s
    obtain ⟨hrun, rfl⟩ := h
    rw [runCommands_cons hw] at hrun
    rw [responses_cons hw]
    exact .cons hw (ih ⟨hrun, rfl⟩)

theorem execute_encode {i : Instr} (h : i.wellFormed = true) (s : State) : execute (encode i) s = exec i s :=
  execute_legal (decode_encode h) s

theorem execute_asmInit {c d : Byte} (hc : c ≠ 0#8) (hd : d ≠ 0#8) (key : List Byte) (s : State) :
    execute (asmInit c d 16#8 key) s = .next ((s.startSession c d (le 128 key)).succeed 0#64) :=
  (execute_encode rfl s).trans (exec_init_of_valid hc hd _ s)

/-- The message word of an assembled ABSORBW is its operand (R53, R90). -/
theorem messageWord_setWidth (m : Word) : messageWord (m.setWidth 128) = m := by
  rw [← le_lanes_eight, lanes_setWidth, le_serialise]

theorem execute_asmAbsorbw {s : State} (hs : s.inSession) (hn : s.bufN = 0#3) (m : Word) :
    execute (asmAbsorbw m) s = .next ((s.absorbWord m).succeed 0#64) := by
  rw [asmAbsorbw, execute_encode rfl, exec_absorbw_of_inSession hs hn, messageWord_setWidth]

theorem execute_asmAbsorbb {s : State} (hs : s.inSession) {bs : List Byte} (h : bs.length ≤ 8) :
    execute (asmAbsorbb (BitVec.ofNat 8 bs.length) bs) s = .next ((s.absorbBytes bs).succeed 0#64) := by
  have hn : (BitVec.ofNat 8 bs.length).toNat = bs.length := by rw [BitVec.toNat_ofNat]; omega
  have h8 : BitVec.ofNat 8 bs.length ≤ 8#8 := by rw [BitVec.le_def, hn]; exact h
  rw [asmAbsorbb, execute_encode (i := .absorbb _ _) (decide_eq_true h8), exec_absorbb_of_inSession hs h8, hn,
    lanes_le bs (by omega)]

theorem execute_asmFinal {s : State} (hs : s.inSession) :
    execute asmFinal s = .next (s.padAndFinalize.succeed s.padAndFinalize.result) :=
  (execute_encode rfl s).trans (exec_final_of_inSession hs _)

theorem intakeAllowed_cons (len : Nat) (p : Intake) (ps : List Intake) :
    intakeAllowed len (p :: ps) = true ↔
      intakeAllowed len [p] = true ∧ intakeAllowed (len + p.message.length) ps = true := by
  cases p with
  | word m => simp [intakeAllowed, Intake.message, length_serialise]
  | bytes bs => simp [intakeAllowed, Intake.message]

/-- A piece allowed where the session stands is taken in; RESULT and ERRS are left (R57, R130, R133). -/
theorem HasTakenIn.execute_intake {c d : Byte} {v : SipState} {msg : List Byte} {s : State} (h : HasTakenIn c d v msg s)
    {p : Intake} (hp : intakeAllowed msg.length [p] = true) :
    ∃ t, execute p.command s = .next t ∧ t.rspErr = 0#4 ∧ t.rspData = 0#64 ∧ HasTakenIn c d v (msg ++ p.message) t ∧
      t.phase = .absorbing ∧ t.result = s.result ∧ t.errs = s.errs := by
  cases p with
  | word m =>
    have hb : msg.length % 8 = 0 := by simpa [intakeAllowed] using hp
    exact ⟨_, execute_asmAbsorbw h.inSession (h.bufN_of_boundary hb) m, rfl, rfl, h.absorbWord hb m, rfl, rfl, rfl⟩
  | bytes bs =>
    have hb : bs.length ≤ 8 := by simpa [intakeAllowed] using hp
    exact ⟨_, execute_asmAbsorbb h.inSession hb, rfl, rfl, h.absorbBytes bs, by simp⟩

/-- Any allowed sequence of pieces is taken in, without an error (R57, R135). -/
theorem HasTakenIn.runs_intake {c d : Byte} {v : SipState} {msg : List Byte} {s : State} (h : HasTakenIn c d v msg s)
    {ps : List Intake} (hp : intakeAllowed msg.length ps = true) :
    ∃ t, Runs (ps.map Intake.command) s t (List.replicate ps.length (0#4, 0#64)) ∧
      HasTakenIn c d v (msg ++ ps.flatMap Intake.message) t ∧ (ps ≠ [] → t.phase = .absorbing) ∧
      t.result = s.result ∧ t.errs = s.errs := by
  induction ps generalizing msg s with
  | nil => exact ⟨s, .nil s, by simpa using h, by simp⟩
  | cons p ps ih =>
    obtain ⟨hp1, hps⟩ := (intakeAllowed_cons _ _ _).mp hp
    obtain ⟨t, ht, he, hd, htaken, hphase, hres, herrs⟩ := h.execute_intake hp1
    rw [← List.length_append] at hps
    obtain ⟨u, hu, hutaken, huphase, hures, huerrs⟩ := ih htaken hps
    refine ⟨u, ?_, ?_, fun _ => ?_, hures.trans hres, huerrs.trans herrs⟩
    · have hrun := Runs.cons ht hu
      rwa [he, hd] at hrun
    · rwa [List.flatMap_cons, ← List.append_assoc]
    · cases ps with
      | nil => cases hu.1; exact hphase
      | cons q qs => exact huphase (List.cons_ne_nil q qs)

end Sys2Proof.Machine
end

section
/-!
The HASH expansions (R92): each is an INIT, the message in pieces, and a FINAL.
-/

namespace Sys2Proof.Machine

/-- The one-shot program that feeds the message in the given pieces. -/
def piecewiseProgram (c d : Byte) (key : List Byte) (ps : List Intake) : List Command :=
  asmInit c d 16#8 key :: (ps.map Intake.command ++ [asmFinal])

/-- Whatever the pieces, the program answers every command but FINAL with 0 and FINAL with SipHash-c-d of the message, and leaves
ERRS (R2, R92). -/
theorem runs_piecewiseProgram {c d : Byte} (hc : c ≠ 0#8) (hd : d ≠ 0#8) (key : List Byte) {ps : List Intake}
    (hp : intakeAllowed 0 ps = true) (s : State) :
    ∃ t, Runs (piecewiseProgram c d key ps) s t
        (List.replicate (ps.length + 1) (0#4, 0#64) ++ [(0#4, sipHash c d key (ps.flatMap Intake.message))]) ∧
      t.result = sipHash c d key (ps.flatMap Intake.message) ∧ t.phase = .finalized ∧
      t.responds 0#4 (sipHash c d key (ps.flatMap Intake.message)) ∧ t.errs = s.errs := by
  obtain ⟨u, hu, hutaken, -, -, huerrs⟩ := (hasTakenIn_startSession c d (le 128 key) s).runs_intake hp
  have hres : u.padAndFinalize.result = sipHash c d key (ps.flatMap Intake.message) := by
    rw [hutaken.padAndFinalize_result, keyLow_le, keyHigh_le, sipHash, List.nil_append]
  have hfinal := execute_asmFinal hutaken.inSession
  rw [hres] at hfinal
  exact ⟨_, .cons (execute_asmInit hc hd key s) (hu.append (.cons hfinal (.nil _))), hres, rfl, ⟨rfl, rfl, rfl⟩, huerrs⟩

/-- The leftover bytes as pieces: none when there are none (R92). -/
def tailPieces (tail : List Byte) : List Intake := if tail = [] then [] else [.bytes tail]

theorem map_command_tailPieces (tail : List Byte) : (tailPieces tail).map Intake.command = tailCommands tail := by
  unfold tailPieces tailCommands
  split <;> rfl

theorem flatMap_message_tailPieces (tail : List Byte) : (tailPieces tail).flatMap Intake.message = tail := by
  unfold tailPieces
  split
  next h => rw [h]; rfl
  next => simp [Intake.message]

theorem intakeAllowed_tailPieces {tail : List Byte} (h : tail.length ≤ 8) (len : Nat) :
    intakeAllowed len (tailPieces tail) = true := by
  unfold tailPieces
  split
  · rfl
  · simpa [intakeAllowed] using h

/-- A full chunk as one piece, `bytes` or a `word`: it is the chunk, and it is allowed at a block boundary. -/
structure IsBlockPiece (f : List Byte → Intake) : Prop where
  message : ∀ ch : List Byte, ch.length = 8 → (f ch).message = ch
  allowed : ∀ (ch : List Byte) (len : Nat), ch.length = 8 → len % 8 = 0 → intakeAllowed len [f ch] = true

theorem isBlockPiece_bytes : IsBlockPiece .bytes where
  message _ _ := rfl
  allowed ch len h _ := by simp [intakeAllowed, h]

/-- The bytes of a chunk's word are the chunk (R51). -/
theorem serialise_le {ch : List Byte} (h : ch.length = 8) : serialise (le 64 ch) = ch := by
  rw [← lanes_setWidth, setWidth_le_of_length ch (by omega), ← h, lanes_le ch (by omega)]

theorem isBlockPiece_word : IsBlockPiece fun ch => .word (le 64 ch) where
  message _ h := serialise_le h
  allowed ch len _ hb := by simp [intakeAllowed, hb]

/-- A message as pieces: one for each full chunk, and the leftover bytes. -/
def blockPieces (f : List Byte → Intake) (msg : List Byte) : List Intake :=
  (fullChunks msg).map f ++ tailPieces (tailBytes msg)

theorem blockPieces_append_of_length_eight (f : List Byte → Intake) {ch : List Byte} (h : ch.length = 8)
    (rest : List Byte) : blockPieces f (ch ++ rest) = f ch :: blockPieces f rest := by
  obtain ⟨hc, ht⟩ := chunks_append_of_length_eight h rest
  rw [blockPieces, hc, ht]; rfl

theorem blockPieces_of_length_lt (f : List Byte → Intake) {bs : List Byte} (h : bs.length < 8) :
    blockPieces f bs = tailPieces bs := by
  obtain ⟨hc, ht⟩ := chunks_of_length_lt h
  rw [blockPieces, hc, ht]; rfl

theorem IsBlockPiece.flatMap_message {f : List Byte → Intake} (hf : IsBlockPiece f) (msg : List Byte) :
    (blockPieces f msg).flatMap Intake.message = msg := by
  induction msg using chunkInduction with
  | short bs h => rw [blockPieces_of_length_lt f h, flatMap_message_tailPieces]
  | chunk ch rest h ih => rw [blockPieces_append_of_length_eight f h, List.flatMap_cons, hf.message ch h, ih]

theorem IsBlockPiece.intakeAllowed {f : List Byte → Intake} (hf : IsBlockPiece f) (msg : List Byte) {len : Nat}
    (hlen : len % 8 = 0) : intakeAllowed len (blockPieces f msg) = true := by
  induction msg using chunkInduction generalizing len with
  | short bs h =>
    rw [blockPieces_of_length_lt f h]
    exact intakeAllowed_tailPieces (Nat.le_of_lt h) len
  | chunk ch rest h ih =>
    rw [blockPieces_append_of_length_eight f h, intakeAllowed_cons, hf.message ch h, h]
    exact ⟨hf.allowed ch len h hlen, ih ((Nat.add_mod_right len 8).trans hlen)⟩

theorem hashProgram_eq_piecewiseProgram (c d : Byte) (key msg : List Byte) :
    hashProgram c d key msg = piecewiseProgram c d key (blockPieces .bytes msg) := by
  have hch : (fullChunks msg).map (Intake.command ∘ .bytes) = (fullChunks msg).map (asmAbsorbb 8#8) :=
    List.map_congr_left fun ch hch => by
      rw [Function.comp_apply, Intake.command, length_of_mem_fullChunks msg ch hch]
  rw [piecewiseProgram, blockPieces, List.map_append, List.map_map, hch, map_command_tailPieces]
  rfl

theorem hashProgramW_eq_piecewiseProgram (c d : Byte) (key msg : List Byte) :
    hashProgramW c d key msg = piecewiseProgram c d key (blockPieces (fun ch => .word (le 64 ch)) msg) := by
  rw [piecewiseProgram, blockPieces, List.map_append, List.map_map, map_command_tailPieces, hashProgramW, fullWords,
    List.map_map]
  rfl

/-- Settles O53: both expansions feed the message in pieces, one for each chunk. -/
theorem hashProgramComputesSipHash : Obligations.HashProgramComputesSipHash := by
  intro c d key msg s hc hd _ prog hprog
  have hpieces : ∃ f, IsBlockPiece f ∧ prog = piecewiseProgram c d key (blockPieces f msg) := by
    obtain rfl | rfl : prog = hashProgram c d key msg ∨ prog = hashProgramW c d key msg := by simpa using hprog
    · exact ⟨_, isBlockPiece_bytes, hashProgram_eq_piecewiseProgram c d key msg⟩
    · exact ⟨_, isBlockPiece_word, hashProgramW_eq_piecewiseProgram c d key msg⟩
  obtain ⟨f, hf, rfl⟩ := hpieces
  obtain ⟨t, ⟨hrun, hresp⟩, hres, hphase, hresponds, herrs⟩ :=
    runs_piecewiseProgram hc hd key (hf.intakeAllowed msg (Nat.zero_mod 8)) s
  rw [hf.flatMap_message] at hresp hres hresponds
  have hlen : (piecewiseProgram c d key (blockPieces f msg)).length - 1 = (blockPieces f msg).length + 1 := by
    simp [piecewiseProgram]
  exact ⟨t, hrun, hres, hphase, hresponds, herrs, hlen ▸ hresp⟩

end Sys2Proof.Machine
end

section
/-!
The adder and the barrel shifter (R100, R102).
-/

namespace Sys2Proof.Machine

/-- Settles O8: the adder is the addition of the 64-bit words. -/
theorem adderWraps : Obligations.AdderWraps :=
  ⟨fun a b => ⟨BitVec.toNat_add a b, BitVec.add_comm a b⟩, by decide, by decide⟩

theorem rotl_zero (x : Word) : rotl x 0#6 = x := if_pos rfl

theorem rotl_of_ne_zero (x : Word) {n : BitVec 6} (h : n ≠ 0#6) :
    rotl x n = (x <<< n.toNat) ||| (x >>> (64 - n.toNat)) := if_neg h

/-- Where a rotation moves each bit: the low `n` bits come from the top of the word, the others from `n` places below (R102). -/
theorem getLsbD_rotl (x : Word) (n : BitVec 6) {i : Nat} (hi : i < 64) :
    (rotl x n).getLsbD i = x.getLsbD ((i + 64 - n.toNat) % 64) := by
  have hn : n.toNat < 64 := n.isLt
  rw [rotl_eq_rotateLeft, BitVec.getLsbD_rotateLeft, Nat.mod_eq_of_lt hn]
  by_cases hlow : i < n.toNat
  · have hsrc : (i + 64 - n.toNat) % 64 = 64 - n.toNat + i := by omega
    rw [decide_eq_true hlow, cond_true, hsrc]
  · have hsrc : (i + 64 - n.toNat) % 64 = i - n.toNat := by omega
    rw [decide_eq_false hlow, cond_false, hsrc, decide_eq_true hi, Bool.true_and]

/-- Rotating by 32 swaps the halves of the word (R102). -/
theorem rotl_32_swaps_halves (x : Word) : rotl x 32#6 = x.extractLsb' 0 32 ++ x.extractLsb' 32 32 := by
  apply BitVec.eq_of_getLsbD_eq
  intro i hi
  rw [getLsbD_rotl x 32#6 hi, BitVec.getLsbD_append, BitVec.getLsbD_extractLsb', BitVec.getLsbD_extractLsb',
    show (32#6).toNat = 32 from rfl]
  by_cases hlow : i < 32
  · have hsrc : (i + 64 - 32) % 64 = 32 + i := by omega
    simp only [hlow, hsrc, decide_true, if_true, Bool.true_and]
  · have hsrc : (i + 64 - 32) % 64 = 0 + (i - 32) := by omega
    have hhalf : i - 32 < 32 := by omega
    simp only [hlow, hsrc, hhalf, decide_true, decide_false, if_false, Bool.true_and]

/-- Settles O9. -/
theorem rotateMovesBits : Obligations.RotateMovesBits :=
  ⟨rotl_zero, fun x _ => rotl_of_ne_zero x, fun x n _ => getLsbD_rotl x n, rotl_32_swaps_halves, by decide⟩

end Sys2Proof.Machine
end

section
/-!
SipRound is a permutation (R104). It is two half rounds, the second with v0 and v2 in each other's place, and each half round
is undone step by step.
-/

namespace Sys2Proof.Machine

/-- Add, rotate and XOR on a pair of registers: `a += b; b = rotl(b, n); b ^= a` of R103. -/
def mix (n : BitVec 6) (p : Word × Word) : Word × Word :=
  (add64 p.1 p.2, xor64 (rotl p.2 n) (add64 p.1 p.2))

/-- The three statements of `mix` undone, the last first. -/
def unmix (n : BitVec 6) (p : Word × Word) : Word × Word :=
  (p.1 - rotl (xor64 p.2 p.1) (-n), rotl (xor64 p.2 p.1) (-n))

theorem xor64_xor64_cancel (a b : Word) : xor64 (xor64 a b) b = a := by
  rw [xor64, xor64, BitVec.xor_assoc, BitVec.xor_self, BitVec.xor_zero]

theorem rotl_neg_rotl (x : Word) (n : BitVec 6) : rotl (rotl x (-n)) n = x := by
  simpa using rotl_rotl_neg x (-n)

@[simp] theorem unmix_mix (n : BitVec 6) (p : Word × Word) : unmix n (mix n p) = p := by
  rw [unmix, mix, xor64_xor64_cancel, rotl_rotl_neg, add64, BitVec.add_sub_cancel]

@[simp] theorem mix_unmix (n : BitVec 6) (p : Word × Word) : mix n (unmix n p) = p := by
  rw [mix, unmix, add64, BitVec.sub_add_cancel, rotl_neg_rotl, xor64_xor64_cancel]

/-- Half a round: v0 with v1 and v2 with v3 mixed, then v0 rotated by 32 (R103). -/
def halfRound (m n : BitVec 6) (v : SipState) : SipState where
  v0 := rotl (mix m (v.v0, v.v1)).1 32#6
  v1 := (mix m (v.v0, v.v1)).2
  v2 := (mix n (v.v2, v.v3)).1
  v3 := (mix n (v.v2, v.v3)).2

/-- The inverse of `halfRound`. -/
def unhalfRound (m n : BitVec 6) (v : SipState) : SipState where
  v0 := (unmix m (rotl v.v0 (-32#6), v.v1)).1
  v1 := (unmix m (rotl v.v0 (-32#6), v.v1)).2
  v2 := (unmix n (v.v2, v.v3)).1
  v3 := (unmix n (v.v2, v.v3)).2

theorem halfRound_bijective (m n : BitVec 6) : Function.Bijective (halfRound m n) := by
  refine Function.bijective_iff_has_inverse.mpr ⟨unhalfRound m n, fun v => ?_, fun v => ?_⟩
  · simp only [unhalfRound, halfRound, rotl_rotl_neg, Prod.mk.eta, unmix_mix]
  · simp only [halfRound, unhalfRound, Prod.mk.eta, mix_unmix, rotl_neg_rotl]

/-- v0 and v2 in each other's place. -/
def swapV0V2 (v : SipState) : SipState := { v with v0 := v.v2, v2 := v.v0 }

theorem swapV0V2_involutive : Function.Involutive swapV0V2 := fun _ => rfl

theorem sipRound_eq_halfRounds :
    sipRound = swapV0V2 ∘ halfRound 17#6 21#6 ∘ swapV0V2 ∘ halfRound 13#6 16#6 := rfl

theorem sipRound_bijective : Function.Bijective sipRound := by
  rw [sipRound_eq_halfRounds]
  have hswap := swapV0V2_involutive.bijective
  exact hswap.comp ((halfRound_bijective _ _).comp (hswap.comp (halfRound_bijective _ _)))

/-- Settles O10. -/
theorem sipRoundIsAPermutation : Obligations.SipRoundIsAPermutation :=
  ⟨sipRound_bijective, by decide, by decide⟩

/-- Settles O11. -/
theorem sipRoundUnitVectors : Obligations.SipRoundUnitVectors :=
  ⟨by decide, by decide, by decide, by decide, by decide⟩

end Sys2Proof.Machine
end

section
/-!
The round sequencer, the absorber and the finalizer cores: iterates of SipRound between XORs of a register (R105, R106, R108).
-/

namespace Sys2Proof.Machine

/-- Settles O12: where a session is open the round counts are nonzero by the invariant. -/
theorem roundsIterateSipRound : Obligations.RoundsIterateSipRound := by
  refine ⟨rounds_eq_iterate, fun s hinv hs => ?_⟩
  obtain ⟨hsession, -, -⟩ := (inv_iff s).mp hinv
  obtain ⟨hc, hd⟩ := hsession.roundCounts_ne_zero hs
  exact ⟨by bv_omega, by bv_omega⟩

/-- Settles O13. -/
theorem absorbCoreMixesOneWord : Obligations.AbsorbCoreMixesOneWord := fun v m c => by
  simp only [absorbCore, xor64, rounds_eq_iterate]

/-- Settles O14. -/
theorem finalizeCoreYieldsTheOutput : Obligations.FinalizeCoreYieldsTheOutput :=
  fun _ _ => ⟨rounds_eq_iterate _ _, rfl⟩

theorem rounds_bijective (k : Nat) : Function.Bijective (rounds · k) := by
  have hiter : (rounds · k) = sipRound^[k] := funext (rounds_eq_iterate · k)
  rw [hiter]
  exact sipRound_bijective.iterate k

theorem xorV0_involutive (m : Word) : Function.Involutive fun v : SipState => { v with v0 := xor64 v.v0 m } :=
  fun v => by simp only [xor64_xor64_cancel]

theorem xorV2_involutive (m : Word) : Function.Involutive fun v : SipState => { v with v2 := xor64 v.v2 m } :=
  fun v => by simp only [xor64_xor64_cancel]

theorem xorV3_involutive (m : Word) : Function.Involutive fun v : SipState => { v with v3 := xor64 v.v3 m } :=
  fun v => by simp only [xor64_xor64_cancel]

theorem absorbCore_bijective (m : Word) (c : Byte) : Function.Bijective (absorbCore · m c) :=
  (xorV0_involutive m).bijective.comp ((rounds_bijective c.toNat).comp (xorV3_involutive m).bijective)

theorem finalizeState_bijective (d : Byte) : Function.Bijective (finalizeState · d) :=
  (rounds_bijective d.toNat).comp (xorV2_involutive 0xFF#64).bijective

/-- Settles O15. -/
theorem absorbingLosesNoState : Obligations.AbsorbingLosesNoState :=
  ⟨absorbCore_bijective, finalizeState_bijective⟩

end Sys2Proof.Machine
end

section
/-!
INIT: its errors in order, the command words that are one, and the register file it leaves under given keys (R121, R122).
-/

namespace Sys2Proof.Machine

theorem exec_init_of_wrong_length {klen : Byte} (hk : klen ≠ 16#8) (c d : Byte) (key : Data) (s : State) :
    exec (.init c d klen key) s = .next (s.raise .invalidKeyLength) := by
  simp [exec, execInit, hk]

theorem exec_init_of_zero_rounds {c d : Byte} (hz : c = 0#8 ∨ d = 0#8) (key : Data) (s : State) :
    exec (.init c d 16#8 key) s = .next (s.raise .invalidRoundCount) := by
  simp [exec, execInit, hz]

theorem exec_init_v {c d : Byte} {key : Data} {v : SipState} (hc : c ≠ 0#8) (hd : d ≠ 0#8)
    (hv : keyedState (keyLow key) (keyHigh key) = v) (s : State) :
    ∃ t, exec (.init c d 16#8 key) s = .next t ∧ t.v = v :=
  ⟨_, exec_init_of_valid hc hd key s, hv⟩

theorem execute_of_word_matches_init {cmd : Command} (h : cmd.word &&& 0x000000FF#32 = 0x00000001#32) (s : State) :
    execute cmd s = exec (.init cmd.c cmd.d cmd.len cmd.data) s := by
  obtain ⟨hr, hop⟩ := cmd.word_matches_init_iff.mp h
  have hc : cmd.Carries (.init cmd.c cmd.d cmd.len cmd.data) := ⟨hop, rfl, rfl, rfl, rfl⟩
  have hf : cmd.FixedFieldsZero := ⟨hr, absurd hop, absurd hop⟩
  exact execute_legal (decode_of_carries hc hf) s

theorem execute_of_reserved_field {cmd : Command} (h : cmd.rsv ≠ 0#4) (s : State) :
    execute cmd s = .next (s.failedWith 4#4) :=
  (illegal_of_not_legal (fun _ hi => h (fixedFieldsZero_of_decode hi).rsv) s).2

/-- The reference key, byte i in lane i, under the constants of R120 (the example of R121). -/
theorem keyedState_referenceKey :
    keyedState (keyLow 0x0f0e0d0c0b0a09080706050403020100#128) (keyHigh 0x0f0e0d0c0b0a09080706050403020100#128) =
      { v0 := 0x7469686173716475#64, v1 := 0x6b617f6d656e6665#64,
        v2 := 0x6b7f62616d677361#64, v3 := 0x7b6b696e727e6c7b#64 } := by decide

theorem keyedState_zeroKey : keyedState (keyLow 0#128) (keyHigh 0#128) = iv := by decide

/-- The all-ones key inverts the constants of R120 (R122). -/
theorem keyedState_onesKey :
    keyedState (keyLow (BitVec.allOnes 128)) (keyHigh (BitVec.allOnes 128)) =
      { v0 := ~~~iv.v0, v1 := ~~~iv.v1, v2 := ~~~iv.v2, v3 := ~~~iv.v3 } := by decide

/-- Settles O16: an INIT that passes both checks starts a session, one that fails either leaves the error's state; its word is
decoded by RSV and OP alone. -/
theorem initResult : Obligations.InitResult := by
  refine ⟨fun _ _ key s hc hd => exec_init_of_valid hc hd key s,
    fun c d _ key s hk => exec_init_of_wrong_length hk c d key s,
    fun _ _ key s hz => exec_init_of_zero_rounds hz key s,
    fun _ s hw => execute_of_word_matches_init hw s,
    fun _ s _ hr => execute_of_reserved_field hr s, fun s => ?_⟩
  have hdec := (decodeReadsSpecWords 0x0f0e0d0c0b0a09080706050403020100#128).1
  rw [execute_legal hdec]
  exact exec_init_v (by decide) (by decide) keyedState_referenceKey s

/-- Settles O17: each register file is the keyed state of its key. -/
theorem initCornerKeys : Obligations.InitCornerKeys := fun _ _ s hc hd =>
  ⟨exec_init_v hc hd keyedState_zeroKey s, exec_init_v hc hd keyedState_onesKey s,
    exec_init_v hc hd keyedState_referenceKey s⟩

end Sys2Proof.Machine
end

section
/-!
ABSORBW and ABSORBB: where they fail, and which command words are one (R130, R133, R175, R177).
-/

namespace Sys2Proof

/-- Bits 31..4 of a command word are the fields above the opcode (R70). -/
theorem Command.word_extract_above_op (c : Command) : c.word.extractLsb' 4 28 = c.len ++ c.d ++ c.c ++ c.rsv := by
  rw [c.word_eq_fields]
  exact BitVec.extractLsb'_append_eq_left

/-- Bits 23..4 are the fields between the opcode and LEN (R70). -/
theorem Command.word_extract_below_len (c : Command) : c.word.extractLsb' 4 20 = c.d ++ c.c ++ c.rsv := by
  have hrounds : c.d ++ c.c = c.word.extractLsb' 8 16 := BitVec.extractLsb'_append_extractLsb'_eq_extractLsb' rfl
  have hall : c.word.extractLsb' 8 16 ++ c.rsv = c.word.extractLsb' 4 20 :=
    BitVec.extractLsb'_append_extractLsb'_eq_extractLsb' rfl
  rw [hrounds, hall]

end Sys2Proof

namespace Sys2Proof.Machine

theorem execute_absorbw_of_nonzero_field {c : Command} (hop : c.op = 2#4) (h : c.word.extractLsb' 4 28 ≠ 0#28) (s : State) :
    execute c s = .next (s.failedWith 4#4) := by
  refine (illegal_of_not_legal (fun i hi => h ?_) s).2
  have hf := fixedFieldsZero_of_decode hi
  obtain ⟨hc, hd⟩ := hf.rounds (by simp [hop])
  have hl := hf.len (by simp [hop]) (by simp [hop])
  rw [c.word_extract_above_op, hf.rsv, hc, hd, hl]
  rfl

theorem execute_absorbb_of_nonzero_field {c : Command} (hop : c.op = 3#4) (h : c.word.extractLsb' 4 20 ≠ 0#20) (s : State) :
    execute c s = .next (s.failedWith 4#4) := by
  refine (illegal_of_not_legal (fun i hi => h ?_) s).2
  have hf := fixedFieldsZero_of_decode hi
  obtain ⟨hc, hd⟩ := hf.rounds (by simp [hop])
  rw [c.word_extract_below_len, hf.rsv, hc, hd]
  rfl

theorem execute_absorbb_of_count_gt_eight {c : Command} (hop : c.op = 3#4) (hn : 8#8 < c.len) (s : State) :
    execute c s = .next (s.failedWith 4#4) :=
  (illegal_of_not_legal (fun _ hi => BitVec.not_lt.mpr (len_le_eight_of_carries (carries_of_decode hi) hop) hn) s).2

theorem execute_of_word_matches_absorbb {c : Command} (h : c.word &&& 0x00FFFFFF#32 = 0x00000003#32) (hn : c.len ≤ 8#8)
    (s : State) : execute c s = exec (.absorbb c.len c.data) s := by
  obtain ⟨n, data, hdec⟩ := (exists_decode_absorbb_iff c).mpr ⟨c.word_matches_absorbb_iff.mp h, hn⟩
  obtain ⟨-, rfl, -, rfl⟩ := carries_of_decode hdec
  exact execute_legal hdec s

theorem exec_absorbw_of_not_inSession {s : State} (hs : ¬ s.inSession) (data : Data) :
    exec (.absorbw data) s = .next (s.raise .invalidState) := by
  obtain ⟨t, ht⟩ := exec_answers (.absorbw data) s
  obtain ⟨-, rfl⟩ | ⟨hs', -⟩ := execAbsorbw_cases ht
  · exact ht
  · exact absurd hs' hs

theorem exec_absorbw_of_buffered {s : State} (hn : s.bufN ≠ 0#3) (data : Data) :
    exec (.absorbw data) s = .next (s.raise .invalidState) := by
  obtain ⟨t, ht⟩ := exec_answers (.absorbw data) s
  obtain ⟨-, rfl⟩ | ⟨-, hn', -⟩ := execAbsorbw_cases ht
  · exact ht
  · exact absurd hn' hn

theorem exec_absorbb_of_not_inSession {s : State} (hs : ¬ s.inSession) {n : Byte} (hn : n ≤ 8#8) (data : Data) :
    exec (.absorbb n data) s = .next (s.raise .invalidState) := by
  obtain ⟨t, ht⟩ := exec_answers (.absorbb n data) s
  obtain ⟨hn', -⟩ | ⟨-, -, rfl⟩ | ⟨-, hs', -⟩ := execAbsorbb_cases ht
  · exact absurd hn' (BitVec.not_lt.mpr hn)
  · exact ht
  · exact absurd hs' hs

/-- Settles O18. -/
theorem absorbwResult : Obligations.AbsorbwResult :=
  ⟨fun data _ hs hn => exec_absorbw_of_inSession hs hn data,
    fun data _ hs => exec_absorbw_of_not_inSession hs data,
    fun data _ hn => exec_absorbw_of_buffered hn data,
    fun data s => execute_encode (i := .absorbw data) rfl s,
    fun _ s hop h => execute_absorbw_of_nonzero_field hop h s⟩

/-- Settles O21: the bytes of an ABSORBB are the lanes of its operand, packed from lane 0 up. -/
theorem absorbbResult : Obligations.AbsorbbResult := by
  refine ⟨fun n data s hn hs => ?_, fun n data s hn hs => exec_absorbb_of_not_inSession hs hn data,
    fun c s h hn => execute_of_word_matches_absorbb h hn s, fun c s hop h => ?_⟩
  · rw [exec_absorbb_of_inSession hs hn, State.absorbBytes, packBytes, lanes, List.foldl_map]
    rfl
  · obtain h | hn := h
    · exact execute_absorbb_of_nonzero_field hop h s
    · exact execute_absorbb_of_count_gt_eight hop hn s

end Sys2Proof.Machine
end

section
/-!
The byte packer where BUF holds given bytes (R132): one byte, and any number of bytes that complete no block or one. From these,
ABSORBB in closed form and beside ABSORBW (R133, R134).
-/

namespace Sys2Proof.Machine

/-- Settles O20. -/
theorem packByteAppends : Obligations.PackByteAppends := by
  intro p b s hp hb
  have hword := packWord_eq_le p b s hp hb
  refine ⟨fun h7 => ?_, fun h7 => ?_⟩
  · rw [packByte_of_ne_seven h7, hword, setWidth_le_of_le (by decide)]
  · rw [packByte_of_eq_seven h7, hword]

/-- `s` with `bytes` taken into BUF, which then holds `held`, and counted in LEN_LO; the register file becomes `v`. -/
def State.afterPacking (v : SipState) (held bytes : List Byte) (s : State) : State :=
  { s with
    v := v, buf := le 56 held, bufN := BitVec.ofNat 3 held.length, lenLo := s.lenLo + BitVec.ofNat 8 bytes.length }

/-- Taking in no bytes leaves the state. -/
theorem afterPacking_nil {p : List Byte} {s : State} (hp : p.length = s.bufN.toNat) (hb : s.buf = le 56 p) :
    s.afterPacking s.v p [] = s := by
  simp [State.afterPacking, hp, ← hb]

/-- Taking in one byte and then others is taking in all of them. -/
theorem afterPacking_afterPacking (v w : SipState) (held held' : List Byte) (b : Byte) (bs : List Byte) (s : State) :
    (s.afterPacking w held' [b]).afterPacking v held bs = s.afterPacking v held (b :: bs) := by
  have hlen : s.lenLo + BitVec.ofNat 8 [b].length + BitVec.ofNat 8 bs.length = s.lenLo + BitVec.ofNat 8 (b :: bs).length := by
    rw [BitVec.add_assoc, ← BitVec.ofNat_add, ← List.length_append, List.singleton_append]
  simp only [State.afterPacking, hlen]

/-- A byte that leaves the block short is appended (R132). -/
theorem packByte_short {p : List Byte} {s : State} (hp : p.length = s.bufN.toNat) (hb : s.buf = le 56 p) (h : p.length < 7)
    (b : Byte) : packByte s b = s.afterPacking s.v (p ++ [b]) [b] := by
  have h7 : s.bufN ≠ 7#3 := fun h7 => by simp [hp, h7] at h
  have hn : s.bufN + 1#3 = BitVec.ofNat 3 (p ++ [b]).length := by
    rw [List.length_append, BitVec.ofNat_add, hp, BitVec.ofNat_toNat, BitVec.setWidth_eq]; rfl
  rw [(packByteAppends p b s hp hb).1 h7, hn]
  rfl

/-- The byte that completes the block has it absorbed (R132). -/
theorem packByte_block {p : List Byte} {s : State} (hp : p.length = s.bufN.toNat) (hb : s.buf = le 56 p) (h : p.length = 7)
    (b : Byte) : packByte s b = s.afterPacking (absorbCore s.v (le 64 (p ++ [b])) s.cfgC) [] [b] :=
  (packByteAppends p b s hp hb).2 (BitVec.eq_of_toNat_eq (hp.symm.trans h))

/-- Bytes that leave the block short are appended to those in BUF (R132). -/
theorem packBytes_short {p bs : List Byte} {s : State} (hp : p.length = s.bufN.toNat) (hb : s.buf = le 56 p)
    (h : p.length + bs.length < 8) : packBytes s bs = s.afterPacking s.v (p ++ bs) bs := by
  induction bs generalizing p s with
  | nil => rw [packBytes_nil, List.append_nil, afterPacking_nil hp hb]
  | cons b bs ih =>
    rw [List.length_cons] at h
    have hlen : (p ++ [b]).length = p.length + 1 := List.length_append
    rw [packBytes_cons, packByte_short hp hb (by omega), ih (p := p ++ [b]) ?_ rfl (by omega), afterPacking_afterPacking,
      List.append_assoc]
    · rfl
    · rw [State.afterPacking, BitVec.toNat_ofNat]; omega

/-- Bytes that complete one block have its eight bytes absorbed, and those after it are held (R132). -/
theorem packBytes_block {p bs : List Byte} {s : State} (hp : p.length = s.bufN.toNat) (hb : s.buf = le 56 p)
    (h8 : 8 ≤ p.length + bs.length) (h16 : p.length + bs.length < 16) :
    packBytes s bs = s.afterPacking (absorbCore s.v (le 64 ((p ++ bs).take 8)) s.cfgC) ((p ++ bs).drop 8) bs := by
  have hp8 : p.length < 8 := hp ▸ s.bufN.isLt
  induction bs generalizing p s with
  | nil => rw [List.length_nil] at h8; omega
  | cons b bs ih =>
    rw [List.length_cons] at h8 h16
    have hlen : (p ++ [b]).length = p.length + 1 := List.length_append
    rw [packBytes_cons, List.append_cons]
    by_cases h7 : p.length = 7
    · rw [packByte_block hp hb h7, packBytes_short (p := []) rfl rfl (by rw [List.length_nil]; omega),
        afterPacking_afterPacking, List.take_left' (by omega), List.drop_left' (by omega)]
      rfl
    · rw [packByte_short hp hb (by omega), ih (p := p ++ [b]) ?_ rfl (by omega) (by omega) (by omega),
        afterPacking_afterPacking]
      · rfl
      · rw [State.afterPacking, BitVec.toNat_ofNat]; omega

/-- Settles O22: eight bytes at most after the seven in BUF at most are less than two blocks. -/
theorem absorbbAbsorbsAtMostOneBlock : Obligations.AbsorbbAbsorbsAtMostOneBlock := by
  intro n data p s hn hs hp hb
  have hlanes : (lanes data n.toNat).length = n.toNat := length_lanes data n.toNat
  have hcount : BitVec.ofNat 8 n.toNat = n := BitVec.eq_of_toNat_eq (by simp)
  rw [exec_absorbb_of_inSession hs hn, State.absorbBytes]
  refine ⟨fun hshort => ?_, fun hblock => ?_⟩
  · rw [packBytes_short hp hb (by omega), State.afterPacking, List.length_append, hlanes, hcount]
    rfl
  · have h16 : p.length + n.toNat < 16 := by bv_omega
    rw [packBytes_block hp hb (by omega) (by omega), State.afterPacking, List.length_drop, List.length_append, hlanes,
      hcount]
    rfl

/-- Eight bytes on an empty buffer are one block, the message word of the operand (R134). -/
theorem absorbBytes_lanes_eight {s : State} (hn : s.bufN = 0#3) (hb : s.buf = 0#56) (data : Data) :
    s.absorbBytes (lanes data 8) = s.absorbWord (messageWord data) := by
  have hl : (lanes data 8).length = 8 := length_lanes data 8
  have ht : (lanes data 8).take 8 = lanes data 8 := List.take_of_length_le hl.le
  have hd : (lanes data 8).drop 8 = [] := List.drop_eq_nil_of_le hl.le
  have hblock := packBytes_block (p := []) (bs := lanes data 8) (by rw [hn]; rfl) hb (by simp [hl]) (by simp [hl])
  rw [State.absorbBytes, hblock, List.nil_append, ht, hd, le_lanes_eight]
  simp only [State.afterPacking, State.absorbWord, hl, hn, hb, le_nil, List.length_nil]

/-- Settles O23. -/
theorem absorbbOfEightAndOfNone : Obligations.AbsorbbOfEightAndOfNone := by
  refine ⟨fun data s hn hb => ?_, fun data s hs => exec_absorbb_of_inSession hs (by decide) data⟩
  by_cases hs : s.inSession
  · have h8 : s.absorbBytes (lanes data (8#8).toNat) = s.absorbWord (messageWord data) := absorbBytes_lanes_eight hn hb data
    rw [exec_absorbb_of_inSession hs (by decide), exec_absorbw_of_inSession hs hn, h8]
  · rw [exec_absorbb_of_not_inSession hs (by decide), exec_absorbw_of_not_inSession hs]

end Sys2Proof.Machine
end

section
/-!
Message intake by the host in pieces, and the raw surface, on which it pads the message itself (R57, R131, R135).
-/

namespace Sys2Proof.Machine

/-- Settles O55: a fresh session has taken in nothing, and each piece extends the message. -/
theorem intakeDependsOnTheMessageAlone : Obligations.IntakeDependsOnTheMessageAlone := by
  intro pieces s hphase hbuf hbufN hlen hp
  have hfresh : HasTakenIn s.cfgC s.cfgD s.v [] s := ⟨.inl hphase, rfl, rfl, rfl, hbuf, hbufN, hlen⟩
  obtain ⟨t, ⟨hrun, hresp⟩, htaken, htphase, hres, herrs⟩ := hfresh.runs_intake hp
  rw [List.nil_append] at htaken
  exact ⟨t, hrun, hresp, htaken.regs, htaken.buf, htaken.toNat_bufN, by rw [htaken.lenLo, BitVec.toNat_ofNat], htphase,
    htaken.cfgC, htaken.cfgD, hres, herrs⟩

/-- The bytes of words are chunked into the same words (R51, R53). -/
theorem fullWords_flatMap_serialise (ws : List Word) : fullWords (ws.flatMap serialise) = ws := by
  induction ws with
  | nil => rfl
  | cons w ws ih =>
    have hc := (chunks_append_of_length_eight (length_serialise w) (ws.flatMap serialise)).1
    rw [fullWords] at ih
    rw [List.flatMap_cons, fullWords, hc, List.map_cons, le_serialise, ih]

theorem intakeAllowed_words (ws : List Word) {len : Nat} (h : len % 8 = 0) :
    intakeAllowed len (ws.map .word) = true := by
  induction ws generalizing len with
  | nil => rfl
  | cons w ws ih =>
    rw [List.map_cons, intakeAllowed, ih ((Nat.add_mod_right len 8).trans h), h]
    rfl

theorem length_flatMap_serialise_mod_eight (ws : List Word) : (ws.flatMap serialise).length % 8 = 0 := by
  induction ws with
  | nil => rfl
  | cons w ws ih => rw [List.flatMap_cons, List.length_append, length_serialise, Nat.add_mod_left, ih]

theorem exec_finalraw_of_inSession {s : State} (hs : s.inSession) (hn : s.bufN = 0#3) (data : Data) :
    exec (.finalraw data) s = .next ((s.finalizeFrom s.v).succeed (s.finalizeFrom s.v).result) := by
  obtain ⟨t, ht⟩ := exec_answers (.finalraw data) s
  obtain ⟨hbad, -⟩ | ⟨-, -, rfl⟩ := execFinalraw_cases (data := data) ht
  · exact absurd hbad (by simp [hs, hn])
  · exact ht

theorem execute_asmFinalraw {s : State} (hs : s.inSession) (hn : s.bufN = 0#3) :
    execute asmFinalraw s = .next ((s.finalizeFrom s.v).succeed (s.finalizeFrom s.v).result) :=
  (execute_encode rfl s).trans (exec_finalraw_of_inSession hs hn _)

/-- A session fed whole words has absorbed exactly them, and nothing is buffered (R57, R130). -/
theorem HasTakenIn.runs_words {c d : Byte} {v : SipState} {s : State} (h : HasTakenIn c d v [] s) (ws : List Word) :
    ∃ t rs, Runs (ws.map asmAbsorbw) s t rs ∧ t.inSession ∧ t.bufN = 0#3 ∧ t.cfgD = d ∧ t.v = absorbWords c v ws := by
  obtain ⟨t, hrun, htaken, -⟩ := h.runs_intake (intakeAllowed_words ws (Nat.zero_mod 8))
  have hcmds : (ws.map Intake.word).map Intake.command = ws.map asmAbsorbw := List.map_map
  have hmsg : (ws.map Intake.word).flatMap Intake.message = ws.flatMap serialise := List.flatMap_map ..
  rw [List.nil_append, hmsg] at htaken
  have hregs := htaken.regs
  rw [fullWords_flatMap_serialise] at hregs
  have hbufN := htaken.bufN_of_boundary (length_flatMap_serialise_mod_eight ws)
  exact ⟨t, _, hcmds ▸ hrun, htaken.inSession, hbufN, htaken.cfgD, hregs⟩

/-- The raw surface answers FINALRAW with SipHash-c-d of the message (R131). -/
theorem runs_rawProgram {c d : Byte} (hc : c ≠ 0#8) (hd : d ≠ 0#8) (key msg : List Byte) (s : State) :
    ∃ t rs, Runs (rawProgram c d key msg) s t rs ∧ t.result = sipHash c d key msg ∧
      t.responds 0#4 (sipHash c d key msg) := by
  obtain ⟨u, rs, hu, hs, hn, hcfg, hv⟩ := (hasTakenIn_startSession c d (le 128 key) s).runs_words (paddedWords msg)
  have hres : (u.finalizeFrom u.v).result = sipHash c d key msg := by
    rw [State.finalizeFrom_result, hcfg, hv, keyLow_le, keyHigh_le, sipHash, finalizeCore]
  have hfinal := execute_asmFinalraw hs hn
  rw [hres] at hfinal
  exact ⟨_, _, .cons (execute_asmInit hc hd key s) (hu.append (.cons hfinal (.nil _))), hres, rfl, rfl, rfl⟩

/-- Settles O54: on both surfaces the output is SipHash-c-d of the message. -/
theorem rawSurfaceEqualsOneShot : Obligations.RawSurfaceEqualsOneShot := by
  intro c d key msg s hc hd hkey
  obtain ⟨t, _, ⟨hrun, -⟩, hres, hresponds⟩ := runs_rawProgram hc hd key msg s
  obtain ⟨u, hurun, hures, -, huresponds, -⟩ :=
    hashProgramComputesSipHash c d key msg s hc hd hkey (hashProgram c d key msg) List.mem_cons_self
  obtain ⟨huchannel, huerr, hudata⟩ := huresponds
  exact ⟨t, u, hrun, hurun, hres.trans hures.symm, hudata ▸ hresponds, huchannel, huerr, hudata.trans hures.symm⟩

end Sys2Proof.Machine
end

section
/-!
PadWord byte by byte, and how many words a message is absorbed as (R150, R155).
-/

namespace Sys2Proof.Machine

/-- A byte put above seven others is byte 7 of the word. -/
theorem byteOf_seven_of_top (x : BitVec 56) (b : Byte) : byteOf (x.setWidth 64 ||| (b.setWidth 64 <<< 56)) 7 = b := by
  apply BitVec.eq_of_getLsbD_eq
  intro i hi
  have hword : 56 + i < 64 ∧ i < 64 := by omega
  simp [-BitVec.getLsbD_eq_getElem, byteOf, hi, hword, BitVec.getLsbD_of_ge]

theorem byteOf_padWord_seven (s : State) : byteOf (padWord s) 7 = s.lenLo := byteOf_seven_of_top s.buf s.lenLo

/-- The eighth byte packed is byte 7 of the word. -/
theorem byteOf_le_snoc_seven {p : List Byte} (hp : p.length = 7) (b : Byte) : byteOf (le 64 (p ++ [b])) 7 = b := by
  rw [le_snoc, hp, ← setWidth_le_of_length (w := 56) p (by omega)]
  exact byteOf_seven_of_top (le 56 p) b

theorem byteOf_padTail_seven {tail : List Byte} (h : tail.length ≤ 7) (len : Nat) :
    byteOf (padTail tail len) 7 = BitVec.ofNat 8 len :=
  byteOf_le_snoc_seven (by rw [List.length_append, List.length_replicate]; omega) _

theorem length_fullChunks (msg : List Byte) : (fullChunks msg).length = msg.length / 8 := by
  induction msg using chunkInduction with
  | short bs h => rw [(chunks_of_length_lt h).1, List.length_nil, Nat.div_eq_of_lt h]
  | chunk ch rest h ih =>
    rw [(chunks_append_of_length_eight h rest).1, List.length_cons, ih, List.length_append, h]
    omega

theorem length_paddedWords (msg : List Byte) : (paddedWords msg).length = msg.length / 8 + 1 := by
  rw [paddedWords, List.length_append, fullWords, List.length_map, length_fullChunks, List.length_singleton]

/-- Settles O24: LEN_LO stands above whatever BUF holds, and `padWord_eq_le` reads BUF as bytes. -/
theorem padWordPlacesTheLength : Obligations.PadWordPlacesTheLength :=
  ⟨fun s => ⟨rfl, byteOf_padWord_seven s⟩, fun _ _ hp hb => padWord_eq_le hp hb⟩

/-- Settles O56: the words of the full chunks, then the padded word of the leftover bytes. -/
theorem blockCountLaw : Obligations.BlockCountLaw := by
  intro msg
  have hlen := length_paddedWords msg
  have htail : (tailBytes msg).length ≤ 7 := by rw [length_tailBytes]; omega
  refine ⟨hlen, by omega, fullWords msg, padTail (tailBytes msg) msg.length, rfl, ?_⟩
  rw [byteOf_padTail_seven htail, BitVec.toNat_ofNat]

end Sys2Proof.Machine
end

section
/-!
FINAL and FINALRAW: where they fail, which command words are one, how they differ, and that only INIT leaves Finalized (R151, R153,
R154, R156).
-/

namespace Sys2Proof.Machine

theorem exec_final_of_not_inSession {s : State} (hs : ¬ s.inSession) (data : Data) :
    exec (.final data) s = .next (s.raise .invalidState) := by
  obtain ⟨t, ht⟩ := exec_answers (.final data) s
  obtain ⟨-, rfl⟩ | ⟨hs', -⟩ := execFinal_cases (data := data) ht
  · exact ht
  · exact absurd hs' hs

theorem exec_finalraw_of_not_ready {s : State} (h : ¬ s.inSession ∨ s.bufN ≠ 0#3) (data : Data) :
    exec (.finalraw data) s = .next (s.raise .invalidState) := by
  obtain ⟨t, ht⟩ := exec_answers (.finalraw data) s
  obtain ⟨-, rfl⟩ | ⟨hs, hn, -⟩ := execFinalraw_cases (data := data) ht
  · exact ht
  · exact absurd h (by simp [hs, hn])

/-- A command that carries no operands in its word is illegal when a bit above the opcode is set (R74, R177). -/
theorem execute_of_nonzero_above_op {c : Command} (h1 : c.op ≠ 1#4) (h3 : c.op ≠ 3#4) (h : c.word.extractLsb' 4 28 ≠ 0#28)
    (s : State) : execute c s = .next (s.failedWith 4#4) := by
  refine (illegal_of_not_legal (fun i hi => h ?_) s).2
  have hf := fixedFieldsZero_of_decode hi
  obtain ⟨hc, hd⟩ := hf.rounds h1
  rw [c.word_extract_above_op, hf.rsv, hc, hd, hf.len h1 h3]
  rfl

/-- Settles O25: each clause is FINAL's lemma for it; a set bit above the opcode is in a field that must be 0. -/
theorem finalResult : Obligations.FinalResult :=
  ⟨fun data _ hs => exec_final_of_inSession hs data,
    fun data _ hs => exec_final_of_not_inSession hs data,
    fun data s => execute_encode (i := .final data) rfl s,
    fun _ s hop h => execute_of_nonzero_above_op (by simp [hop]) (by simp [hop]) h s⟩

/-- Settles O26: FINALRAW fails for either reason alone, whatever the other. -/
theorem finalrawResult : Obligations.FinalrawResult :=
  ⟨fun data _ hs hn => exec_finalraw_of_inSession hs hn data,
    fun data _ hs => exec_finalraw_of_not_ready (.inl hs) data,
    fun data _ hn => exec_finalraw_of_not_ready (.inr hn) data,
    fun data s => execute_encode (i := .finalraw data) rfl s,
    fun _ s hop h => execute_of_nonzero_above_op (by simp [hop]) (by simp [hop]) h s⟩

/-- On an empty buffer, FINAL's register changes are FINALRAW's from the register file with the padded block absorbed (R154). -/
theorem padAndFinalize_of_empty {s : State} (hn : s.bufN = 0#3) (hb : s.buf = 0#56) :
    s.padAndFinalize = s.finalizeFrom (absorbCore s.v (padWord s) s.cfgC) := by
  simp only [State.padAndFinalize, State.finalizeFrom, hn, hb]

/-- Settles O27. -/
theorem finalIsPadThenFinalraw : Obligations.FinalIsPadThenFinalraw := by
  intro data s hn hb hs
  rw [exec_final_of_inSession hs, padAndFinalize_of_empty hn hb]
  exact (exec_finalraw_of_inSession (s := { s with v := absorbCore s.v (padWord s) s.cfgC }) hs hn data).symm

/-- Without a session every legal command but INIT raises InvalidState (R175). -/
theorem exec_of_not_inSession {i : Instr} {s : State} (hw : i.wellFormed = true) (hi : ∀ c d klen key, i ≠ .init c d klen key)
    (hs : ¬ s.inSession) : exec i s = .next (s.raise .invalidState) := by
  cases i with
  | init c d klen key => exact absurd rfl (hi c d klen key)
  | absorbw data => exact exec_absorbw_of_not_inSession hs data
  | absorbb n data => exact exec_absorbb_of_not_inSession hs (of_decide_eq_true hw) data
  | final data => exact exec_final_of_not_inSession hs data
  | finalraw data => exact exec_finalraw_of_not_ready (.inl hs) data

theorem not_inSession_of_finalized {s : State} (h : s.phase = .finalized) : ¬ s.inSession := by simp [h]

/-- Settles O28: an error leaves PHASE, and the successes other than INIT's need a session. -/
theorem finalizedIsTerminal : Obligations.FinalizedIsTerminal := by
  refine ⟨fun i s hw hi hp => exec_of_not_inSession hw hi (not_inSession_of_finalized hp), fun c s t hp ht hleave => ?_⟩
  have hs := not_inSession_of_finalized hp
  obtain ⟨e, rfl⟩ | ⟨cr, dr, key, hd, -, -, rfl⟩ | ⟨_, -, h, -⟩ | ⟨_, _, -, -, h, -⟩ | ⟨_, -, h, -⟩ | ⟨_, -, h, -⟩ :=
    execute_cases ht
  · exact absurd hp hleave
  · exact ⟨⟨cr, dr, key, hd⟩, rfl, rfl⟩
  all_goals exact absurd h hs

end Sys2Proof.Machine
end

section
/-!
How a command ends (R174, R176, R179): it raises an error or succeeds, and what either leaves on the response channel, in
LAST_ERR and in ERRS; from that, ERRS over a sequence of commands.
-/

namespace Sys2Proof.Machine

/-- A command raises an error, or succeeds after changes that leave ERRS alone (R174, R179). -/
theorem execute_raises_or_succeeds {c : Command} {s t : State} (h : execute c s = .next t) :
    (∃ e, t = s.raise e) ∨ ∃ (u : State) (x : Word), u.errs = s.errs ∧ t = u.succeed x := by
  obtain h | ⟨-, -, -, rfl⟩ | ⟨-, -, -, rfl⟩ | ⟨-, -, rfl⟩ | ⟨-, -, rfl⟩ | ⟨-, -, -, rfl⟩ := execute_cases_op h
  case inl => exact .inl h
  all_goals exact .inr ⟨_, _, by simp, rfl⟩

theorem execute_lastErr {c : Command} {s t : State} (h : execute c s = .next t) : t.lastErr = t.rspErr := by
  obtain ⟨e, rfl⟩ | ⟨u, x, -, rfl⟩ := execute_raises_or_succeeds h <;> rfl

theorem execute_rspErr_le_four {c : Command} {s t : State} (h : execute c s = .next t) : t.rspErr ≤ 4#4 := by
  obtain ⟨e, rfl⟩ | ⟨u, x, -, rfl⟩ := execute_raises_or_succeeds h
  · exact e.code_le_four
  · simp

/-- ERRS is set by a failure and by nothing else (R179). -/
theorem execute_errs_iff {c : Command} {s t : State} (h : execute c s = .next t) :
    t.errs = true ↔ s.errs = true ∨ t.rspErr ≠ 0#4 := by
  obtain ⟨e, rfl⟩ | ⟨u, x, hu, rfl⟩ := execute_raises_or_succeeds h
  · simp
  · simp [hu]

/-- A successful command leaves ERRS (R179). -/
theorem execute_errs_of_success {c : Command} {s t : State} (h : execute c s = .next t) (he : t.rspErr = 0#4) :
    t.errs = s.errs := by
  rw [Bool.eq_iff_iff, execute_errs_iff h]
  simp [he]

/-- After any commands from any state, ERRS is 1 exactly when it was before or some of them failed (R179). -/
theorem runCommands_errs_iff {cs : List Command} {s t : State} (h : runCommands cs s = .next t) :
    t.errs = true ↔ s.errs = true ∨ ∃ r ∈ responses cs s, r.1 ≠ 0#4 := by
  induction cs generalizing s with
  | nil =>
    cases h
    simp [responses]
  | cons c cs ih =>
    obtain ⟨u, hu⟩ := execute_answers c s
    rw [runCommands_cons hu] at h
    rw [ih h, execute_errs_iff hu, responses_cons hu, List.exists_mem_cons_iff, or_assoc]

/-- Settles O32: from reset ERRS is 0, so it is 1 exactly when some command failed. -/
theorem errsRemembersEveryFailure : Obligations.ErrsRemembersEveryFailure := by
  refine ⟨fun c s t h => ⟨execute_lastErr h, fun he => ⟨(execute_lastErr h).trans he, execute_errs_of_success h he⟩⟩,
    fun cs t h => ?_⟩
  have hreset : State.reset.errs ≠ true := Bool.false_ne_true
  rw [runCommands_errs_iff h, or_iff_right hreset]

/-- A successful FINAL or FINALRAW responds with the output, which is in RESULT and folded from v0-v3 (R108, R176). -/
theorem execute_responds_output {c : Command} {s t : State} (h : execute c s = .next t) (he : t.rspErr = 0#4)
    (hop : c.op = 0x4#4 ∨ c.op = 0x5#4) : t.rspData = t.result ∧ t.result = foldOut t.v := by
  obtain ⟨e, rfl⟩ | ⟨ho, -⟩ | ⟨ho, -⟩ | ⟨ho, -⟩ | ⟨-, -, rfl⟩ | ⟨-, -, -, rfl⟩ := execute_cases_op h
  case inl => exact absurd he e.code_ne_zero
  case inr.inr.inr.inr.inl | inr.inr.inr.inr.inr => exact ⟨rfl, rfl⟩
  all_goals simp [ho] at hop

/-- Every response but that of a successful FINAL or FINALRAW carries 0 (R176). -/
theorem execute_responds_zero {c : Command} {s t : State} (h : execute c s = .next t)
    (hno : ¬ (t.rspErr = 0#4 ∧ (c.op = 0x4#4 ∨ c.op = 0x5#4))) : t.rspData = 0#64 := by
  obtain ⟨e, rfl⟩ | ⟨-, -, -, rfl⟩ | ⟨-, -, -, rfl⟩ | ⟨-, -, rfl⟩ | ⟨hop, -, rfl⟩ | ⟨hop, -, -, rfl⟩ := execute_cases_op h
  case inr.inr.inr.inr.inl => exact absurd ⟨rfl, .inl hop⟩ hno
  case inr.inr.inr.inr.inr => exact absurd ⟨rfl, .inr hop⟩ hno
  all_goals rfl

/-- Settles O33. -/
theorem responsesCarryOutputsOnly : Obligations.ResponsesCarryOutputsOnly := fun _ _ _ h =>
  ⟨execute_channel h, execute_rspErr_le_four h, execute_responds_output h, execute_responds_zero h⟩

end Sys2Proof.Machine
end

section
/-!
The error priority (R178): each meaning makes its checks in the order of the table, and the decoder those before them. So a
command reports the first error the table has for it, read from its word, PHASE and BUF_N alone (R174), and reports it again (R170).
-/

namespace Sys2Proof.Machine

/-- From `s`, the command that leaves `t` reported exactly this: the error, with its effect (R174), or success. -/
inductive Reports : Option SipError → State → State → Prop where
  | error (e : SipError) (s : State) : Reports (some e) s (s.raise e)
  | success {s t : State} (h : t.rspErr = 0#4) : Reports none s t

/-- The first applicable error of a legal command: what is left of the table of R178 once the word is decoded. -/
def legalError : Instr → State → Option SipError
  | .init c d klen _, _ =>
    if klen ≠ 16#8 then some .invalidKeyLength else if c = 0#8 ∨ d = 0#8 then some .invalidRoundCount else none
  | .absorbw _, s | .finalraw _, s => if ¬ s.inSession ∨ s.bufN ≠ 0#3 then some .invalidState else none
  | .absorbb _ _, s | .final _, s => if ¬ s.inSession then some .invalidState else none

/-- The meaning of a legal command reports its first applicable error. -/
theorem exec_reports {i : Instr} {s t : State} (hw : i.wellFormed = true) (h : exec i s = .next t) :
    Reports (legalError i s) s t := by
  cases i with
  | init c d klen key =>
    obtain ⟨hk, rfl⟩ | ⟨hk, hz, rfl⟩ | ⟨hk, hc, hd, rfl⟩ := execInit_cases h
    · rw [legalError, if_pos hk]; exact .error _ s
    · rw [legalError, if_neg (not_not.mpr hk), if_pos hz]; exact .error _ s
    · rw [legalError, if_neg (not_not.mpr hk), if_neg (not_or.mpr ⟨hc, hd⟩)]; exact .success rfl
  | absorbw data =>
    obtain ⟨hbad, rfl⟩ | ⟨hs, hn, rfl⟩ := execAbsorbw_cases h
    · rw [legalError, if_pos hbad]; exact .error _ s
    · rw [legalError, if_neg (by simp [hs, hn])]; exact .success rfl
  | absorbb n data =>
    obtain ⟨hn, rfl⟩ | ⟨-, hs, rfl⟩ | ⟨-, hs, rfl⟩ := execAbsorbb_cases h
    · exact absurd hn (BitVec.not_lt.mpr (of_decide_eq_true hw))
    · rw [legalError, if_pos hs]; exact .error _ s
    · rw [legalError, if_neg (not_not.mpr hs)]; exact .success rfl
  | final data =>
    obtain ⟨hs, rfl⟩ | ⟨hs, rfl⟩ := execFinal_cases (data := data) h
    · rw [legalError, if_pos hs]; exact .error _ s
    · rw [legalError, if_neg (not_not.mpr hs)]; exact .success rfl
  | finalraw data =>
    obtain ⟨hbad, rfl⟩ | ⟨hs, hn, rfl⟩ := execFinalraw_cases (data := data) h
    · rw [legalError, if_pos hbad]; exact .error _ s
    · rw [legalError, if_neg (by simp [hs, hn])]; exact .success rfl

theorem not_inSession_iff (s : State) : ¬ s.inSession ↔ s.phase = .idle ∨ s.phase = .finalized := by
  cases h : s.phase <;> simp [h]

/-- On a legal command word the table of R178 comes down to the checks of the instruction. -/
theorem firstError_of_legal {c : Command} {i : Instr} (h : decode c = .legal i) (s : State) :
    firstError c s = legalError i s := by
  obtain ⟨hc, hf⟩ := decode_eq_legal_iff.mp h
  cases i with
  | init cr dr klen key =>
    obtain ⟨hop, rfl, rfl, rfl, -⟩ := hc
    simp [firstError, legalError, hop, hf.rsv]
  | absorbb n data =>
    obtain ⟨hop, rfl, hn, -⟩ := hc
    have hr := hf.rounds (by simp [hop])
    simp only [legalError, not_inSession_iff]
    simp [firstError, hop, hf.rsv, hr, BitVec.not_lt.mpr hn]
  | absorbw data | final data | finalraw data =>
    obtain ⟨hop, -⟩ := hc
    have hr := hf.rounds (by simp [hop])
    have hl := hf.len (by simp [hop]) (by simp [hop])
    simp only [legalError, not_inSession_iff]
    simp [firstError, hop, hf.rsv, hr, hl, ite_or]

/-- A command word to which none of the table's three rows of illegal fields applies is legal (R72, R74). -/
theorem exists_decode_of_fields {c : Command} (hop : ¬ (c.rsv ≠ 0#4 ∨ c.op = 0#4 ∨ 6#4 ≤ c.op))
    (hz : ¬ ((c.op = 2#4 ∨ c.op = 4#4 ∨ c.op = 5#4) ∧ ¬ (c.c = 0#8 ∧ c.d = 0#8 ∧ c.len = 0#8)))
    (hb : ¬ (c.op = 3#4 ∧ (¬ (c.c = 0#8 ∧ c.d = 0#8) ∨ 8#8 < c.len))) : ∃ i, decode c = .legal i := by
  obtain ⟨hr, h0, h6⟩ : c.rsv = 0#4 ∧ c.op ≠ 0#4 ∧ ¬ 6#4 ≤ c.op := by simpa using hop
  have hplain (h : c.op = 2#4 ∨ c.op = 4#4 ∨ c.op = 5#4) : c.FixedFieldsZero :=
    Command.fixedFieldsZero_of_noOperands hr (c.noOperands_iff.mpr (by tauto))
  have hcases : c.op = 1#4 ∨ c.op = 2#4 ∨ c.op = 3#4 ∨ c.op = 4#4 ∨ c.op = 5#4 := by bv_omega
  obtain h | h | h | h | h := hcases
  · obtain ⟨_, _, _, _, hd⟩ := (exists_decode_init_iff c).mpr ⟨hr, h⟩
    exact ⟨_, hd⟩
  · exact ⟨.absorbw c.data, decode_of_carries ⟨h, rfl⟩ (hplain (by simp [h]))⟩
  · obtain ⟨⟨hc, hd⟩, hn⟩ : (c.c = 0#8 ∧ c.d = 0#8) ∧ ¬ 8#8 < c.len := by tauto
    obtain ⟨_, _, hd⟩ := (exists_decode_absorbb_iff c).mpr ⟨⟨hd, hc, hr, h⟩, BitVec.not_lt.mp hn⟩
    exact ⟨_, hd⟩
  · exact ⟨.final c.data, decode_of_carries ⟨h, rfl⟩ (hplain (by simp [h]))⟩
  · exact ⟨.finalraw c.data, decode_of_carries ⟨h, rfl⟩ (hplain (by simp [h]))⟩

/-- On an illegal command word the table of R178 has IllegalCommand, in every state. -/
theorem firstError_of_illegal {c : Command} {cause : IllegalCause} (h : decode c = .illegal cause) (s : State) :
    firstError c s = some .illegalCommand := by
  unfold firstError
  split
  · rfl
  split
  · rfl
  split
  · rfl
  next hop hz hb =>
    obtain ⟨i, hi⟩ := exists_decode_of_fields hop hz hb
    cases h.symm.trans hi

/-- Every command reports the first applicable error of the table (R178). -/
theorem execute_reports {c : Command} {s t : State} (h : execute c s = .next t) : Reports (firstError c s) s t := by
  cases hd : decode c with
  | legal i =>
    rw [execute_legal hd] at h
    rw [firstError_of_legal hd]
    exact exec_reports (wellFormed_of_decode hd) h
  | illegal cause =>
    rw [execute_illegal hd] at h
    cases h
    rw [firstError_of_illegal hd]
    exact .error _ s

/-- The table reads the fields of the command word, PHASE and BUF_N alone (R174). -/
theorem firstError_congr {c c' : Command} {s s' : State} (hw : c.word = c'.word) (hp : s.phase = s'.phase)
    (hn : s.bufN = s'.bufN) : firstError c s = firstError c' s' := by
  unfold firstError Command.op Command.rsv Command.c Command.d Command.len
  rw [hw, hp, hn]

theorem Reports.rspErr_eq {o : Option SipError} {s t : State} (h : Reports o s t) : t.rspErr = o.elim 0#4 SipError.code := by
  cases h with
  | error => rfl
  | success h => exact h

/-- A command that fails has an error of the table, with its effect (R174, R178). -/
theorem execute_fails {c : Command} {s t : State} (h : execute c s = .next t) (he : t.rspErr ≠ 0#4) :
    ∃ e, firstError c s = some e ∧ t = s.raise e := by
  generalize ho : firstError c s = o
  have hr := execute_reports h
  rw [ho] at hr
  cases hr with
  | error e => exact ⟨e, rfl, rfl⟩
  | success h0 => exact absurd h0 he

theorem execute_of_firstError {c : Command} {s : State} {e : SipError} (h : firstError c s = some e) :
    execute c s = .next (s.raise e) := by
  obtain ⟨t, ht⟩ := execute_answers c s
  have hr := execute_reports ht
  rw [h] at hr
  cases hr
  exact ht

/-- Settles O29: a failure is a `raise`, and which one is the table's to say. -/
theorem failureWritesOnlyErrorRegisters : Obligations.FailureWritesOnlyErrorRegisters := by
  refine ⟨fun c s t h he => ?_, fun c c' s s' t t' hw hp hn h h' => ?_⟩
  · obtain ⟨e, -, rfl⟩ := execute_fails h he
    exact raise_eq_failedWith s e
  · rw [(execute_reports h).rspErr_eq, (execute_reports h').rspErr_eq, firstError_congr hw hp hn]

/-- Settles O30: an error of the table comes with its effect, none with success. -/
theorem firstApplicableErrorIsReported : Obligations.FirstApplicableErrorIsReported := by
  intro c s
  obtain ⟨t, ht⟩ := execute_answers c s
  refine ⟨t, ht, ?_⟩
  have hr := execute_reports ht
  generalize firstError c s = o at hr ⊢
  cases hr with
  | error e => exact raise_eq_failedWith s e
  | success h => exact h

/-- Settles O34: the error left PHASE and BUF_N, so the table has the same one again, and raising it again writes what stands
there. -/
theorem failureRepeats : Obligations.FailureRepeats := by
  intro c s t h he
  obtain ⟨e, hfirst, rfl⟩ := execute_fails h he
  have hagain : firstError c (s.raise e) = some e := (firstError_congr rfl rfl rfl).trans hfirst
  exact execute_of_firstError hagain

end Sys2Proof.Machine
end

section
/-!
Edges that complete no command (R186): they change no register, and an idle core that nothing is asked of does not change at
all.
-/

namespace Sys2Proof.Machine

theorem arch_of_step_of_not_executing {s t : State} (h : step s = .next t) (hr : s.ports.rstN = true)
    (hc : ∀ c, s.channel ≠ .executing c) : t.arch = s.arch := by
  obtain ⟨h0, -⟩ | ⟨-, -, rfl⟩ | ⟨-, c, hx, -⟩ | ⟨-, -, rfl⟩ := step_cases h
  · exact absurd hr (by simp [h0])
  · exact (idleEdge_frame s.ports s.advance).1
  · exact absurd hx (hc c)
  · exact (responseEdge_frame s.ports s.advance).1

theorem idleEdge_of_no_offers {p : PortsIn} {s : State} (h : s.offers p = []) : s.idleEdge p = s := by
  simp only [State.idleEdge, h]

theorem advance_of_inputs_nil {s : State} (h : s.inputs = []) : s.advance = s := by
  cases s
  cases h
  rfl

/-- Settles O46: past the end of its list the host drives quiet ports, on which an idle core finds no command (log 3). -/
theorem onlyCommandsAndResetChangeRegisters : Obligations.OnlyCommandsAndResetChangeRegisters := by
  refine ⟨fun s t h hr hc => arch_of_step_of_not_executing h hr hc, fun s hc hw hi => ?_⟩
  have hp : s.ports = PortsIn.quiet := by rw [State.ports, hi]; rfl
  have hoffers : s.offers PortsIn.quiet = [] := by rw [State.offers, hw]; rfl
  rw [step_of_idle (hp ▸ rfl) hc, hp, advance_of_inputs_nil hi, idleEdge_of_no_offers hoffers]

end Sys2Proof.Machine
end

section
/-!
The reference latency (R214) of a command by how it ended: the overhead alone after an error, and after a success the rounds of
the decoded instruction on top (R109).
-/

namespace Sys2Proof.Machine

/-- A command that succeeds has no error of the table, and its word is legal (R178). -/
theorem execute_succeeds {c : Command} {s t : State} (h : execute c s = .next t) (he : t.rspErr = 0#4) :
    firstError c s = none ∧ ∃ i, decode c = .legal i := by
  have hfirst : firstError c s = none := by
    refine Option.eq_none_iff_forall_ne_some.mpr fun e hsome => ?_
    cases h.symm.trans (execute_of_firstError hsome)
    exact e.code_ne_zero he
  refine ⟨hfirst, ?_⟩
  cases hd : decode c with
  | legal i => exact ⟨i, rfl⟩
  | illegal cause => cases hfirst.symm.trans (firstError_of_illegal hd s)

theorem latency_of_failure {c : Command} {s t : State} (h : execute c s = .next t) (he : t.rspErr ≠ 0#4) :
    latency c s = Config.cmdOverhead := by
  obtain ⟨e, hfirst, -⟩ := execute_fails h he
  simp only [latency, hfirst]

theorem latency_of_success {c : Command} {s t : State} (h : execute c s = .next t) (he : t.rspErr = 0#4) :
    ∃ i, c.Carries i ∧ latency c s = Config.cmdOverhead + roundsOf s i * Config.roundCycles := by
  obtain ⟨hfirst, i, hd⟩ := execute_succeeds h he
  exact ⟨i, carries_of_decode hd, by simp only [latency, hfirst, hd]⟩

/-- Settles O58: the opcode names the instruction, whose rounds R109 counts; an ABSORBB is split on its block. -/
theorem referenceLatencies : Obligations.ReferenceLatencies := by
  intro c s t h
  refine ⟨latency_of_failure h, fun he => ?_⟩
  obtain ⟨i, hi, hlatency⟩ := latency_of_success h he
  rw [hlatency]
  cases i with
  | init | absorbw | final | finalraw =>
    obtain ⟨hop, -⟩ := hi
    simp [hop, roundsOf]
  | absorbb n data =>
    obtain ⟨hop, rfl, -⟩ := hi
    by_cases hblock : s.bufN.toNat + c.len.toNat < 8
    · simp [hop, roundsOf, hblock]
    · simp [hop, roundsOf, hblock, Nat.not_lt.mp hblock]

end Sys2Proof.Machine
end

section
/-!
The channel (R205 to R207): what BUSY and cmd_ready say of it, which edges put a command into execution or end one, and how a
response is held and transferred.
-/

namespace Sys2Proof.Machine

theorem busy_iff (s : State) : s.busy = true ↔ (∃ c, s.channel = .executing c) ∨ s.channel = .responding := by
  unfold State.busy
  cases s.channel <;> simp

theorem cmdReady_iff (rstN : Bool) (s : State) : s.cmdReady rstN = true ↔ rstN = true ∧ s.channel = .idle := by
  simp [State.cmdReady, State.busy]

theorem channel_eq_idle_iff (s : State) :
    s.channel = .idle ↔ (∀ c, s.channel ≠ .executing c) ∧ s.channel ≠ .responding := by
  cases s.channel <;> simp

theorem responseEdge_of_not_ready {p : PortsIn} (h : p.rspReady = false) (s : State) : s.responseEdge p = s.noteOffer p := by
  simp [State.responseEdge, h]

/-- A response waits until an edge with rsp_ready = 1 (R207). -/
theorem responseEdge_channel {s : State} (hc : s.channel = .responding) (p : PortsIn) :
    (s.responseEdge p).channel = if p.rspReady then .idle else .responding := by
  cases h : p.rspReady with
  | true => exact (responseEdge_of_ready h s).1
  | false => rw [responseEdge_of_not_ready h]; exact hc

/-- Only an edge of an idle core without reset puts a command into execution (R200, R206). -/
theorem step_accepts {s t : State} {c : Command} (h : step s = .next t) (ht : t.channel = .executing c) :
    s.ports.rstN = true ∧ s.channel = .idle ∧ t = s.advance.idleEdge s.ports := by
  obtain ⟨-, rfl⟩ | ⟨hr, hc, ht'⟩ | ⟨-, _, -, hx⟩ | ⟨-, hc, rfl⟩ := step_cases h
  · cases ht
  · exact ⟨hr, hc, ht'⟩
  · cases ht.symm.trans (execute_channel hx)
  · rw [responseEdge_channel (s := s.advance) hc] at ht
    split at ht <;> cases ht

/-- Settles O44: what is accepted is accepted by a ready core; a command in execution and a response end by their own edge. -/
theorem oneCommandInFlight : Obligations.OneCommandInFlight := by
  refine ⟨busy_iff, fun rstN s => ?_, fun s t c h hready ht => ?_, fun s t c h hr hc => ?_, fun s t h hr hc => ?_⟩
  · rw [cmdReady_iff, channel_eq_idle_iff]
  · obtain ⟨hr, hc, -⟩ := step_accepts h ht
    exact Bool.false_ne_true (hready.symm.trans ((cmdReady_iff _ s).mpr ⟨hr, hc⟩))
  · rw [step_of_executing hr hc] at h
    exact execute_channel h
  · rw [step_of_responding hr hc] at h
    cases h
    exact responseEdge_channel (s := s.advance) hc s.ports

/-- Settles O45. -/
theorem responseIsHeldUntilTaken : Obligations.ResponseIsHeldUntilTaken := by
  intro s hr hc
  refine ⟨_, step_of_responding hr hc, (responseEdge_frame s.ports s.advance).1, fun hhold => ?_, fun htake => ?_⟩
  · rw [responseEdge_of_not_ready hhold]
    exact ⟨hc, rfl, rfl⟩
  · obtain ⟨hidle, -⟩ := responseEdge_of_ready htake s.advance
    exact ⟨hidle, by simp [State.rspValid, hidle]⟩

end Sys2Proof.Machine
end

section
/-!
Which command an idle core accepts (R205; row 8 of 93_implementation_defined.md): values its host presented, and exactly the
command of a host that held it.
-/

namespace Sys2Proof.Machine

theorem pick_mem {α : Type} (k : Nat) (x : α) (xs : List α) : pick k x xs ∈ x :: xs := by
  have hk : k % (xs.length + 1) < (x :: xs).length := Nat.mod_lt k (Nat.succ_pos xs.length)
  rw [pick, List.getD_eq_getElem _ _ hk]
  exact List.getElem_mem hk

/-- A value picked from one field of the offers is that field of one of them. -/
theorem exists_offer_of_pick {α : Type} (f : Command → α) (k : Nat) (o : Command) (os : List Command) :
    ∃ o' ∈ o :: os, f o' = pick k (f o) (os.map f) :=
  List.mem_map.mp (List.map_cons ▸ pick_mem k (f o) (os.map f))

/-- The word of the command accepted is the word of an offer, and its data the data of an offer (log 4). -/
theorem accepted_was_presented {p : PortsIn} {s : State} {c : Command} (h : s.accepted p = some c) :
    (∃ o ∈ s.offers p, o.word = c.word) ∧ ∃ o ∈ s.offers p, o.data = c.data := by
  unfold State.accepted at h
  split at h
  next => cases h
  next o os hoffers =>
    rw [hoffers]
    split_ifs at h <;> cases h
    · exact ⟨⟨c, List.mem_cons_self, rfl⟩, c, List.mem_cons_self, rfl⟩
    · exact ⟨exists_offer_of_pick Command.word _ o os, exists_offer_of_pick Command.data _ o os⟩

/-- A command that an edge of an idle core puts into execution is the one accepted there. -/
theorem accepted_of_idleEdge {p : PortsIn} {s : State} {c : Command} (hc : s.channel = .idle)
    (h : (s.idleEdge p).channel = .executing c) : s.accepted p = some c := by
  unfold State.idleEdge at h
  split at h
  next => cases hc.symm.trans h
  next =>
    cases ha : s.accepted p with
    | none => simp [ha] at h
    | some c' => simpa [ha] using h

/-- Settles O43. -/
theorem acceptedValuesWerePresented : Obligations.AcceptedValuesWerePresented := by
  intro s t c hc h ht
  obtain ⟨-, -, rfl⟩ := step_accepts h ht
  exact accepted_was_presented (s := s.advance) (accepted_of_idleEdge (s := s.advance) hc ht)

/-- A host that held its command has presented that one alone, at one edge or more. -/
theorem offers_of_held {p : PortsIn} {s : State} (hv : p.cmdValid = true) (hw : ∀ c ∈ s.waiting, c = p.cmd) :
    s.offers p = p.cmd :: List.replicate s.waiting.length p.cmd := by
  rw [State.offers, List.eq_replicate_of_mem hw, hv, if_pos rfl, ← List.replicate_succ', List.length_replicate,
    List.replicate_succ]

/-- The command a host held is put into execution, whatever the free values are (R205). -/
theorem idleEdge_of_held {p : PortsIn} {s : State} (hv : p.cmdValid = true) (hw : ∀ c ∈ s.waiting, c = p.cmd) :
    s.idleEdge p = { s with channel := .executing p.cmd, waiting := [], draws := s.draws + 1 } := by
  have hoffers := offers_of_held hv hw
  have haccepted : s.accepted p = some p.cmd := by simp [State.accepted, hoffers, hv]
  simp only [State.idleEdge, hoffers, haccepted]

/-- Settles O42. -/
theorem heldCommandIsAccepted : Obligations.HeldCommandIsAccepted := by
  intro s hr hc hv hw
  rw [step_of_idle hr hc, idleEdge_of_held (s := s.advance) hv hw]
  rfl

end Sys2Proof.Machine
end

section
/-!
Reset (R200, R201), and the output ports in each state of the channel (R206 to R208).
-/

namespace Sys2Proof.Machine

/-- Without reset no edge clears ERRS (R29, R200). -/
theorem errs_of_step {s t : State} (h : step s = .next t) (hr : s.ports.rstN = true) (he : s.errs = true) :
    t.errs = true := by
  cases hc : s.channel with
  | executing c =>
    rw [step_of_executing hr hc] at h
    exact (execute_errs_iff h).mpr (.inl he)
  | idle | responding =>
    have harch : t.arch = s.arch := arch_of_step_of_not_executing h hr (by simp [hc])
    exact (congrArg Arch.errs harch).trans he

/-- Settles O41. -/
theorem resetFromEveryState : Obligations.ResetFromEveryState := by
  refine ⟨fun s t => errs_of_step, fun s hr => ⟨?_, _, step_of_reset hr, ?_⟩⟩
  · rw [State.cmdReady, hr, Bool.false_and]
  · simp [State.resetAction, State.reset]

/-- The channel ports show the channel whether or not a command is in execution (R206, R207). -/
theorem observe_channel (cycle : Nat) (s : State) :
    (observe cycle s).cmdReady = s.cmdReady s.ports.rstN ∧ (observe cycle s).rspValid = s.rspValid ∧
    (observe cycle s).rspErr = s.rspErr ∧ (observe cycle s).rspData = s.rspData := by
  unfold observe
  split <;> exact ⟨rfl, rfl, rfl, rfl⟩

theorem extractLsb'_or_busyMask (x : BitVec 32) : (x ||| busyMask).extractLsb' 2 1 = 1#1 := by
  rw [BitVec.extractLsb'_or, show busyMask.extractLsb' 2 1 = BitVec.allOnes 1 from rfl, BitVec.or_allOnes]
  rfl

/-- BUSY is the one field of the observation ports that R208 leaves defined throughout. -/
theorem observe_busy (cycle : Nat) (s : State) :
    (observe cycle s).statusO.extractLsb' 2 1 = if s.channel = .idle then 0#1 else 1#1 := by
  cases hc : s.channel with
  | executing c =>
    simp only [observe, hc]
    exact extractLsb'_or_busyMask _
  | idle | responding =>
    obtain ⟨-, hstatus, -⟩ := observe_of_not_executing (s := s) (by simp [hc]) cycle
    obtain ⟨-, hbusy, -⟩ := statusViewFields s
    rw [hstatus, hbusy, hc]

/-- Settles O39. -/
theorem portsShowTheState : Obligations.PortsShowTheState := by
  intro cycle s
  obtain ⟨hready, hvalid, herr, hdata⟩ := observe_channel cycle s
  rw [observe_busy, hready, hvalid]
  refine ⟨fun h => observe_of_not_executing h cycle, fun c hc => ?_, cmdReady_iff _ s, fun hc => if_pos hc, fun hc => ?_⟩
  · simp [hc, State.rspValid, State.cmdReady, State.busy]
  · exact ⟨by simp [hc], by simp [State.rspValid, hc], herr, hdata⟩

end Sys2Proof.Machine
end

section
/-!
Known answers of SipHash-c-d under the reference key (95_test_vectors.md V-FN).
-/

namespace Sys2Proof.Machine

/-- Settles O57: each answer is what the model computes for its closed message; the lengths stand on both sides of the block
boundaries at 8 and 16 bytes. -/
theorem knownAnswers : Obligations.KnownAnswers :=
  ⟨by decide, by decide, by decide, by decide, by decide, by decide, by decide, by decide⟩

end Sys2Proof.Machine
end
